-- ==== Sys2Proof/Word.lean ====
section
/-! DEFINITION. Names of the part's bit fields and of its numbered pieces: bytes and 16-bit fields of frames, ports, channels, banks. -/

namespace Sys2Proof

/-- One byte of a frame (R165, R173). -/
abbrev Byte := BitVec 8

/-- A 16-bit field: an epoch, a timestamp, a CRC (R54, R131, R165). -/
abbrev Half := BitVec 16

/-- A channel set: bit n names channel n (R173). -/
abbrev ChanSet := BitVec 16

/-- A controller port, 0 to 3. -/
abbrev Port := Fin 4

/-- A channel, 0 to 15 (R1). -/
abbrev Channel := Fin 16

/-- A bank, A being 0 (R1). -/
abbrev Bank := Fin 4

end Sys2Proof
end

