-- ==== Sys2Proof/Config.lean ====
section
/-! DEFINITION. The capacities of the part, and the values that the spec leaves open: the check word of a slot of the coefficient store. -/

namespace Sys2Proof.Config

/-- Claim records in the pool shared by the four ports (R22). -/
def poolSize : Nat := 8

/-- Pending claims one session may hold (R22). -/
def sessionClaims : Nat := 4

/-- Records a notification queue holds at most (R127, R128). -/
def queueCapacity : Nat := 16

/-- The largest length field a request frame may carry without being answered FORMAT (R167). -/
def maxPayload : Nat := 40

/-- The value at which a port's error counts stay (R164). -/
def countLimit : Nat := 255

/-- The check word over the other fields of a slot of the coefficient store, whose algorithm R147 does not give: over the
channel, the place of its range, the generation, the gain and the offset. A free value: nothing constrains it
(notes/assumptions/10.md). -/
opaque checkWord (channel : Channel) (range : Fin 4) (generation : Byte) (gain offset : Int) : Half

/-- In which bits the check word of a slot left invalid differs from the agreeing one, if it is not 0: what such a slot
holds in its place is open (R149, R151, R154). A free value: nothing constrains it (notes/assumptions/10.md). -/
opaque checkError (channel : Channel) (range : Fin 4) (generation : Byte) (gain offset : Int) : Half

end Sys2Proof.Config
end

