-- ==== Sys2Proof/Syntax.lean ====
section
/-! DEFINITION. The commands of the part: one constructor of `Instr` for each row of spec/opcode_table.json. -/

namespace Sys2Proof

/-- A complete request frame less its kind byte (R165, R174). `payload` holds the L payload bytes; the rows that fix
the first payload byte (a CAL step, a TIMEBASE variant) leave that byte out of it. Bytes after the frame are ignored
by the part and have no place here. -/
structure Frame where
  seq : Byte
  epoch : Half
  payload : List Byte
  crc : Half
  deriving DecidableEq, Repr

/-- What of an update tick is taken in this command: the blocks take it as events of their own, in an order that the spec
leaves open (R89, R120, R156, R157). `whole`: all of it, with every event that falls due at it. `stepFirst`: the monitor
samples and reports its flag changes and the output engine steps; what falls due waits for its own command. `stepLast`: the monitor samples and the
engine's step waits. `stepNow`: the engine takes the step that waits (notes/assumptions/1.md). -/
inductive TickOrder where
  | whole
  | stepFirst
  | stepLast
  | stepNow
  deriving DecidableEq, Repr

/-- The commands. Every request row carries the port it arrives on and its frame. -/
inductive Instr where
  /-- The RESET input is asserted. `slotComplete`: a slot being written had its check word written (R154, R164). -/
  | reset (slotComplete : Bool)
  /-- RESET ends: the straps PCnB:PCnA of each port and the level of MHOLD (R55, R154, R162). -/
  | resetEnd (straps : Vector (BitVec 2) 4) (mhold : Bool)
  | startUpLoadCompletion
  | openSession (p : Port) (f : Frame)
  | closeSession (p : Port) (f : Frame)
  | refresh (p : Port) (f : Frame)
  | mode (p : Port) (f : Frame)
  | claim (p : Port) (f : Frame)
  | cancel (p : Port) (f : Frame)
  | release (p : Port) (f : Frame)
  | write (p : Port) (f : Frame)
  | configure (p : Port) (f : Frame)
  | read (p : Port) (f : Frame)
  | notes (p : Port) (f : Frame)
  | calBegin (p : Port) (f : Frame)
  | calDrive (p : Port) (f : Frame)
  | calMeasure (p : Port) (f : Frame)
  | calCompute (p : Port) (f : Frame)
  | calDefault (p : Port) (f : Frame)
  | calCommit (p : Port) (f : Frame)
  | calAbort (p : Port) (f : Frame)
  /-- A CAL frame whose step code names none of the seven steps, or that carries no step; the whole payload stands in
  the frame (R140, R174). -/
  | calUnknownStep (p : Port) (f : Frame)
  | timebaseRead (p : Port) (f : Frame)
  | timebaseWrite (p : Port) (f : Frame)
  /-- A TIMEBASE frame whose variant is neither READ nor WRITE, or that carries none; the whole payload stands in the
  frame (R159, R174). -/
  | timebaseUnknownVariant (p : Port) (f : Frame)
  | status (p : Port) (f : Frame)
  /-- A complete frame whose kind byte names none of the fourteen kinds (R167). -/
  | unknownKindFrame (p : Port) (kind : Byte) (f : Frame)
  /-- A selection that ended before its frame was complete, with the bytes received (R165). -/
  | frameError (p : Port) (received : List Byte)
  /-- The fetch code was received on the port (R170). -/
  | fetch (p : Port)
  /-- The fetch selection ended after the whole frame had been clocked out (R170). -/
  | responseClockedOut (p : Port)
  /-- An update tick: the level of each field-sense input, and the output measured on each loop-sense input in units
  of the channel's range (R10, R113, R114). -/
  | updateTick (fieldSense : Vector Bool 4) (loopSense : Vector Int 16) (order : TickOrder)
  | timerUnitEvent
  | lapse
  | claimWaitExpiry
  | handoverTimerExpiry (c : Channel)
  | fieldLoss (b : Bank)
  | fieldRestore (b : Bank)
  | openLoadFlagChange (c : Channel)
  | deviationFlagChange (c : Channel)
  | holdAssertion
  | holdRelease
  /-- The store's comparison ends; `verified`: the slot read back as written (R149 to R151). -/
  | commitCompletion (verified : Bool)
  /-- A complete frame, whatever its kind byte, whose CRC differs from the computed one (R165). -/
  | crcErrorFrame (p : Port) (kind : Byte) (f : Frame)
  deriving DecidableEq, Repr

end Sys2Proof
end

