-- ==== Sys2Proof/Machine/State.lean ====
section
/-! DEFINITION. The state of the part as plain data, the reasons a step could stop, and the state right after RESET. -/

namespace Sys2Proof.Machine

/-! ## Values of the fields -/

/-- A driving range (R3). -/
inductive DriveRange where
  | v10 | vb10 | i20 | i420
  deriving DecidableEq, Repr

/-- The range of a channel (R3). -/
inductive Range where
  | off
  | driving (d : DriveRange)
  deriving DecidableEq, Repr

/-- A forced action (R99). -/
inductive Action where
  | hold | zero | safe
  deriving DecidableEq, Repr

/-- The handover modes STEP, MATCH and RAMP (R5). -/
inductive HandoverMode where
  | step | matching | ramp
  deriving DecidableEq, Repr

/-- Ownership state, with the owner when OWNED (R7; notes/assumptions/18.md). -/
inductive Ownership where
  | free | reserved
  | owned (p : Port)
  deriving DecidableEq, Repr

/-- Drive states of the output engine (R9, R73). -/
inductive Drive where
  | off | forced | holding | ramping | follow | calibrating
  deriving DecidableEq, Repr

/-- The configuration record of a channel (R1, R5). -/
structure ChanConfig where
  range : Range
  preemptible : Bool
  handover : HandoverMode
  matchWindow : Nat
  slewLimit : Nat
  rampStep : Nat
  timeout : Nat
  idleAction : Action
  lapseAction : Action
  releaseAction : Action
  safe : Int
  deviationLimit : Nat
  deriving DecidableEq, Repr

/-- A forced action with the value it drives while the channel is FORCED, or the remembered action, which carries its
kind alone, while the channel is OFF with its bank LOST (R73, R99, R105). -/
structure ForcedAction where
  action : Action
  value : Option Int
  deriving DecidableEq, Repr

/-- A channel record (R1), with the monitor's previous applied value (R112). -/
structure Chan where
  config : ChanConfig
  own : Ownership
  target : Option Int
  drive : Drive
  applied : Int
  held : Option Int
  forced : Option ForcedAction
  /-- Handover timer: `none` when stopped. It stands at 0 only between a timer-unit event and the expiry (R84). -/
  timer : Option Nat
  readback : Int
  openLoad : Bool
  openLoadCount : Nat
  deviation : Bool
  deviationCount : Nat
  prevApplied : Int
  calDefault : Bool
  deriving DecidableEq, Repr

inductive SessionState where
  | closed | idle | run | lapsed
  deriving DecidableEq, Repr

/-- A session context (R52). The number of pending claims is computed from the pending list (notes/assumptions/16.md). -/
structure Session where
  state : SessionState
  epoch : Half
  priority : Nat
  lease : Nat
  counter : Nat
  deriving DecidableEq, Repr

/-- A claim record (R21). -/
structure Claim where
  tag : Byte
  port : Port
  epoch : Half
  priority : Nat
  set : ChanSet
  /-- Wait remaining in timer units; `none` is no limit. -/
  wait : Option Nat
  arrival : Nat
  deriving DecidableEq, Repr

inductive FieldState where
  | ok | lost
  deriving DecidableEq, Repr

/-- Field state of a bank and its count (R112). -/
structure BankState where
  field : FieldState
  count : Nat
  deriving DecidableEq, Repr

/-- Phases of an open calibration context; phase NONE is an absent context (R139). -/
inductive CalPhase where
  | opened | low | high | computed | committing
  deriving DecidableEq, Repr

/-- The two calibration points (R142). -/
inductive CalPoint where
  | low | high
  deriving DecidableEq, Repr

/-- A gain correction in ppm and an offset correction in units (R96, R147). -/
structure Coeff where
  gain : Int
  offset : Int
  deriving DecidableEq, Repr

/-- The calibration context in a phase other than NONE (R139). -/
structure CalContext where
  phase : CalPhase
  port : Port
  epoch : Half
  channel : Channel
  range : DriveRange
  start : Int
  measuredLow : Option Int
  measuredHigh : Option Int
  computed : Option Coeff
  deriving DecidableEq, Repr

/-- A slot of the coefficient store (R147). -/
structure Slot where
  channel : Channel
  range : DriveRange
  generation : Byte
  coeff : Coeff
  check : Half
  deriving DecidableEq, Repr

/-- What the calibration unit holds for one channel-range: its two slots, which of them is the newer, and the record
in effect (R147). -/
structure Cell where
  slots : Vector Slot 2
  newer : Option (Fin 2)
  effect : Coeff
  deriving DecidableEq, Repr

inductive Period where
  | us250 | us500 | ms1 | ms2 | ms4
  deriving DecidableEq, Repr

inductive Multiple where
  | m8 | m32 | m128
  deriving DecidableEq, Repr

inductive HoldState where
  | released | asserted
  deriving DecidableEq, Repr

/-- The timebase (R155). The tick count stands at M only between an update tick and its timer-unit event (R156). -/
structure Timebase where
  period : Period
  multiple : Multiple
  tickCount : Nat
  unitCounter : Half
  hold : HoldState
  deriving DecidableEq, Repr

/-- The fifteen kinds of notification record with the fields each carries (R132). -/
inductive NoteBody where
  | granted (tag : Byte) (set : ChanSet)
  | revoked (c : Channel) (other : Port)
  | claimExpired (tag : Byte)
  | handoverDone (c : Channel) (value : Int)
  | handoverForced (c : Channel) (value : Int)
  | handoverStalled (c : Channel) (value : Int)
  | fieldLost (b : Bank)
  | fieldRestored (b : Bank)
  | openLoad (c : Channel) (set : Bool)
  | deviation (c : Channel) (set : Bool)
  | holdOn
  | holdOff
  | calAborted (c : Channel)
  | leaseLapsed
  | overflow (lost : Nat)
  deriving DecidableEq, Repr

/-- A notification record (R131). -/
structure Note where
  body : NoteBody
  stamp : Half
  deriving DecidableEq, Repr

/-- Results of response frames (R176). -/
inductive Result where
  | ok | granted | queued | pending | noneHeld | starting | format | notOpen | lapsed | stale | alreadyOpen | badArg
  | notOwner | notConfigured | notIdle | ownOverlap | dupTag | busy | claimFull | notFound | calBusy | calState
  | calActive | fieldLost | outOfLimits | storeFailed | locked
  deriving DecidableEq, Repr

/-- A channel status record (R17). -/
structure StatusRecord where
  channel : Channel
  range : Range
  own : Ownership
  drive : Drive
  target : Option Int
  applied : Int
  readback : Int
  fieldOk : Bool
  openLoad : Bool
  deviation : Bool
  calDefault : Bool
  reservedByHead : Bool
  deriving DecidableEq, Repr

/-- The fields of a STATUS response (R172, R175). -/
structure StatusFields where
  session : Session
  pendingClaims : Nat
  queueCount : Nat
  crcErrors : Nat
  frameErrors : Nat
  overruns : Nat
  hold : HoldState
  banks : Vector FieldState 4
  listLength : Nat
  contextInUse : Bool
  deriving DecidableEq, Repr

/-- Payloads of response frames (R175). A CAL payload without a channel carries FFH in its place (R140, R173). -/
inductive Payload where
  | empty
  | opened (epoch : Half) (priority : Nat)
  | claim (tag : Byte) (revoked : ChanSet) (position : Nat)
  | written (clamped : List (Channel × Int))
  | configured (c : Channel)
  | channels (records : List StatusRecord)
  | notes (records : List Note)
  | cal (c : Option Channel) (phase : Option CalPhase)
  | computed (c : Option Channel) (phase : Option CalPhase) (gain offset : Int)
  | committed (c : Channel) (range : DriveRange) (generation : Byte) (coeff : Coeff)
  | storeFailed (c : Channel) (phase : Option CalPhase) (range : DriveRange)
  | timebase (period : Period) (multiple : Multiple) (units : Half) (hold : HoldState) (lock : Bool)
  | timebaseSet (period : Period) (multiple : Multiple)
  | status (fields : StatusFields)
  deriving DecidableEq, Repr

/-- A response as it is saved and buffered: what the flags byte adds is made at the fetch (R171), but for CLAMPED,
which belongs to the response. -/
structure Response where
  kind : Byte
  seq : Byte
  result : Result
  clamped : Bool
  payload : Payload
  deriving DecidableEq, Repr

/-- The saved copy of the last executed request (R164, R168). -/
structure SavedCopy where
  seq : Byte
  kind : Byte
  response : Response
  deriving DecidableEq, Repr

/-- A frame fixed at a fetch, with its four flags (R170, R171). -/
structure SentFrame where
  kind : Byte
  seq : Byte
  result : Result
  queueFlag : Bool
  replayFlag : Bool
  overrunFlag : Bool
  clampedFlag : Bool
  payload : Payload
  deriving DecidableEq, Repr

/-- Transport state and response buffer in one: the buffer holds a response in ANSWERED alone (R164;
notes/assumptions/18.md). -/
inductive Transport where
  | ready
  /-- EXECUTING, with the sequence number of the COMMIT, which a PENDING frame carries (R170). -/
  | executing (seq : Byte)
  /-- ANSWERED, with the response waiting and whether it was placed by a replay (R168). -/
  | answered (response : Response) (replay : Bool)
  deriving DecidableEq, Repr

/-- The state of a controller port (R164). -/
structure PortState where
  transport : Transport
  overrunPending : Bool
  saved : Option SavedCopy
  crcErrors : Nat
  frameErrors : Nat
  overruns : Nat
  /-- The frame fixed at the last fetch, while its selection lasts (R170). -/
  sending : Option SentFrame
  deriving DecidableEq, Repr

/-! ## The state -/

/-- Everything the spec gives the part, and the queue of commands that wait. -/
structure State where
  chans : Vector Chan 16
  claims : List Claim
  arrivals : Nat
  sessions : Vector Session 4
  epochCounter : Half
  ceilings : Vector Nat 4
  banks : Vector BankState 4
  cal : Option CalContext
  store : Vector (Vector Cell 4) 16
  timebase : Timebase
  queues : Vector (List Note) 4
  ports : Vector PortState 4
  starting : Bool
  /-- The RESET input is asserted: no tick, no load, no hold edge is taken (R154, R156; notes/assumptions/5.md). -/
  resetAsserted : Bool
  /-- The model's own: the output engine has not taken the last update tick yet (R89, R120; notes/assumptions/1.md). -/
  stepDue : Bool
  /-- The model's own: the claim arbiter has not taken the last timer-unit event yet (R157; notes/assumptions/1.md). -/
  waitsDue : Bool
  /-- The model's own: the session block has not taken the last timer-unit event yet (R157; notes/assumptions/1.md). -/
  leasesDue : Bool
  /-- The model's own: the session of the port was renewed by REFRESH or WRITE after the timer-unit event that the session
  block has not taken yet fell due, so it does not lapse at that event (R69; notes/assumptions/30.md). -/
  renewed : Vector Bool 4
  /-- The commands that wait, first in first out. -/
  pending : List Instr
  deriving DecidableEq, Repr

/-- Reasons to stop with a fault: the part has none, since every refusal of the spec is a result code (R176). -/
inductive Fault : Type
  deriving DecidableEq, Repr

/-- Reasons to refuse a command. -/
inductive Refusal where
  /-- Raised by `exec` for a command without a meaning yet. Safe: nothing can be proved of what follows. -/
  | notModelled (mnemonic : String)
  deriving DecidableEq, Repr

/-! ## The state right after RESET -/

/-- R2, first twelve rows. -/
def ChanConfig.reset : ChanConfig where
  range := .off
  preemptible := false
  handover := .matching
  matchWindow := 100
  slewLimit := 0
  rampStep := 100
  timeout := 16
  idleAction := .hold
  lapseAction := .safe
  releaseAction := .hold
  safe := 0
  deviationLimit := 300

/-- R2, R73, R112. -/
def Chan.reset : Chan where
  config := .reset
  own := .free
  target := none
  drive := .off
  applied := 0
  held := none
  forced := none
  timer := none
  readback := 0
  openLoad := false
  openLoadCount := 0
  deviation := false
  deviationCount := 0
  prevApplied := 0
  calDefault := false

/-- The values of a CLOSED session (R52), which are also those after RESET. -/
def Session.closedContext : Session where
  state := .closed
  epoch := 0
  priority := 0
  lease := 0
  counter := 0

/-- R164. -/
def PortState.reset : PortState where
  transport := .ready
  overrunPending := false
  saved := none
  crcErrors := 0
  frameErrors := 0
  overruns := 0
  sending := none

/-- R155. The hold state before RESET ends is a DESIGN CHOICE (notes/assumptions/7.md). -/
def Timebase.reset : Timebase where
  period := .ms1
  multiple := .m32
  tickCount := 0
  unitCounter := 0
  hold := .released

/-- The default record (R147). -/
def Coeff.default : Coeff := ⟨0, 0⟩

/-- A slot of channel `c` that has never been written: its channel-range is that of another place, so that it is invalid
whatever the check is (R147). DESIGN CHOICE (notes/assumptions/8.md). -/
def Slot.blank (c : Channel) : Slot where
  channel := c + 1
  range := .v10
  generation := 0
  coeff := .default
  check := 0

/-- A channel-range of a blank store before the start-up load. DESIGN CHOICE (notes/assumptions/8.md, 9.md). -/
def Cell.blank (c : Channel) : Cell where
  slots := Vector.replicate 2 (.blank c)
  newer := none
  effect := .default

/-- The machine right after RESET was asserted, before RESET ends (notes/assumptions/5.md), with a blank store. -/
def State.reset : State where
  chans := Vector.replicate 16 .reset
  claims := []
  arrivals := 0
  sessions := Vector.replicate 4 .closedContext
  epochCounter := 0
  ceilings := Vector.replicate 4 1
  banks := Vector.replicate 4 ⟨.lost, 0⟩
  cal := none
  store := Vector.ofFn fun c => Vector.replicate 4 (.blank c)
  timebase := .reset
  queues := Vector.replicate 4 []
  ports := Vector.replicate 4 .reset
  starting := true
  resetAsserted := true
  stepDue := false
  waitsDue := false
  leasesDue := false
  renewed := Vector.replicate 4 false
  pending := []

end Sys2Proof.Machine
end

