-- ==== Sys2Proof/Machine/Ops.lean ====
section
/-! DEFINITION. The named operations every meaning is written over: reading and updating the parts of the state, the value limits, the entries of the output engine on one channel, and handing a record to a queue. -/

namespace Sys2Proof.Machine

/-! ## Numbers -/

/-- Ports in ascending order. -/
def allPorts : List Port := [0, 1, 2, 3]

/-- Banks A to D. -/
def allBanks : List Bank := [0, 1, 2, 3]

/-- Channels in ascending order. -/
def allChannels : List Channel := [0, 1, 2, 3, 4, 5, 6, 7, 8, 9, 10, 11, 12, 13, 14, 15]

/-- Channel n belongs to bank n div 4 (R1). -/
def bankOf (c : Channel) : Bank := ⟨c.val / 4, by omega⟩

/-- The set names the channel (R173). -/
def inSet (set : ChanSet) (c : Channel) : Bool := set.getLsbD c.val

/-- `v` limited to `lo` to `hi`. -/
def clampInt (lo hi v : Int) : Int := max lo (min hi v)

/-- `num / den` for a positive `den`, rounded to the nearest whole number, a half away from zero (R96, R144). -/
def roundDiv (num : Int) (den : Nat) : Int :=
  let q : Int := ((2 * num.natAbs + den) / (2 * den) : Nat)
  if num < 0 then -q else q

/-- A move from `a` toward `t` by at most `limit` (R80, R81). -/
def moveToward (limit : Nat) (a t : Int) : Int :=
  if (t - a).natAbs ≤ limit then t else if a < t then a + limit else a - limit

/-- An error count after its event: it stays at 255 (R164). -/
def bumpCount (n : Nat) : Nat := min Config.countLimit (n + 1)

/-! ## Ranges -/

/-- Lower limit of a range in units (R3). -/
def DriveRange.lower : DriveRange → Int
  | .v10 => 0
  | .vb10 => -10500
  | .i20 => 0
  | .i420 => -2500

/-- Lower limit of a range in units (R3). -/
def Range.lower : Range → Int
  | .off => 0
  | .driving d => d.lower

/-- Upper limit of a range in units (R3). -/
def Range.upper : Range → Int
  | .off => 0
  | .driving _ => 10500

/-- `v` lies within the limits of the range (R3). -/
def Range.admits (r : Range) (v : Int) : Bool := decide (r.lower ≤ v) && decide (v ≤ r.upper)

/-- The lowest drive code (R97). -/
def DriveRange.lowestCode : DriveRange → Int
  | .v10 => 0
  | .vb10 => -10800
  | .i20 => 0
  | .i420 => -2500

/-- The highest drive code (R97). -/
def DriveRange.highestCode : DriveRange → Int
  | _ => 10800

/-- The readback of a channel whose driver is disabled (R115). -/
def DriveRange.undriven : DriveRange → Int
  | .i420 => -2500
  | _ => 0

/-- The raw point that CAL DRIVE drives (R142). -/
def DriveRange.rawPoint : DriveRange → CalPoint → Int
  | .vb10, .low => -9000
  | .vb10, .high => 9000
  | _, .low => 500
  | _, .high => 9500

/-- Place of a driving range within its channel's records of the store (R147). -/
def DriveRange.place : DriveRange → Fin 4
  | .v10 => 0
  | .vb10 => 1
  | .i20 => 2
  | .i420 => 3

/-- Update ticks of a timer unit (R155). -/
def Multiple.ticks : Multiple → Nat
  | .m8 => 8
  | .m32 => 32
  | .m128 => 128

/-! ## Parts of the state -/

def State.chan (s : State) (c : Channel) : Chan := s.chans[c]

def State.session (s : State) (p : Port) : Session := s.sessions[p]

def State.bank (s : State) (b : Bank) : BankState := s.banks[b]

def State.queue (s : State) (p : Port) : List Note := s.queues[p]

def State.port (s : State) (p : Port) : PortState := s.ports[p]

def State.ceiling (s : State) (p : Port) : Nat := s.ceilings[p]

def State.cell (s : State) (c : Channel) (d : DriveRange) : Cell := s.store[c][d.place]

/-- Every channel record changed at once, each by what `f` makes of it. -/
def State.mapChans (s : State) (f : Channel → Chan → Chan) : State :=
  { s with chans := Vector.ofFn fun c => f c (s.chan c) }

def State.modChan (s : State) (c : Channel) (f : Chan → Chan) : State :=
  { s with chans := s.chans.set c (f (s.chan c)) }

def State.mapSessions (s : State) (f : Port → Session → Session) : State :=
  { s with sessions := Vector.ofFn fun p => f p (s.session p) }

def State.modSession (s : State) (p : Port) (f : Session → Session) : State :=
  { s with sessions := s.sessions.set p (f (s.session p)) }

def State.mapBanks (s : State) (f : Bank → BankState → BankState) : State :=
  { s with banks := Vector.ofFn fun b => f b (s.bank b) }

def State.modBank (s : State) (b : Bank) (f : BankState → BankState) : State :=
  { s with banks := s.banks.set b (f (s.bank b)) }

def State.modQueue (s : State) (p : Port) (f : List Note → List Note) : State :=
  { s with queues := s.queues.set p (f (s.queue p)) }

def State.modPort (s : State) (p : Port) (f : PortState → PortState) : State :=
  { s with ports := s.ports.set p (f (s.port p)) }

def State.modCell (s : State) (c : Channel) (d : DriveRange) (f : Cell → Cell) : State :=
  { s with store := s.store.set c ((s.store[c]).set d.place (f (s.cell c d))) }

/-! ## What blocks read of one another -/

/-- The session is IDLE or RUN. -/
def Session.isOpen (x : Session) : Bool :=
  match x.state with
  | .idle | .run => true
  | .closed | .lapsed => false

/-- The session of the port is IDLE or RUN. -/
def State.sessionOpen (s : State) (p : Port) : Bool := (s.session p).isOpen

/-- The bank of the channel is in field state OK. -/
def State.bankOk (s : State) (c : Channel) : Bool := decide ((s.bank (bankOf c)).field = .ok)

/-- The channel is OWNED by the port. -/
def Chan.ownedBy (r : Chan) (p : Port) : Bool := decide (r.own = .owned p)

/-- The owner of the channel, if it has one. -/
def Chan.owner (r : Chan) : Option Port :=
  match r.own with
  | .owned p => some p
  | .free | .reserved => none

/-- The range is one that drives. -/
def Chan.ranged (r : Chan) : Bool := decide (r.config.range ≠ .off)

/-- The claim belongs to the present session of the port: port and epoch name the session (R21). -/
def State.ownsClaim (s : State) (p : Port) (k : Claim) : Bool :=
  decide (k.port = p) && decide (k.epoch = (s.session p).epoch)

/-- The pending claims of the session of the port, in list order (R22). -/
def State.claimsOf (s : State) (p : Port) : List Claim := s.claims.filter (s.ownsClaim p)

/-- The calibration context names the channel (R139). -/
def State.calNames (s : State) (c : Channel) : Bool :=
  match s.cal with
  | some x => decide (x.channel = c)
  | none => false

/-- The session of the port holds the calibration context (R140). -/
def State.holdsCal (s : State) (p : Port) : Bool :=
  match s.cal with
  | some x => decide (x.port = p) && decide (x.epoch = (s.session p).epoch)
  | none => false

/-- The record in effect of the channel-range is 0 ppm and 0 units; clear in range OFF (R4, R147). -/
def State.defaultFlag (s : State) (c : Channel) : Range → Bool
  | .off => false
  | .driving d => decide ((s.cell c d).effect = Coeff.default)

/-! ## Entries of the output engine, on one channel -/

/-- The value an action drives at its entry (R99). -/
def Chan.actionValue (r : Chan) : Action → Int
  | .hold => r.applied
  | .zero => 0
  | .safe => r.config.safe

/-- Entry into FORCED with an action: R98. With range OFF nothing changes; with the bank LOST the action becomes the
remembered action (R105). -/
def Chan.force (bankOk : Bool) (a : Action) (r : Chan) : Chan :=
  if r.config.range = .off then r
  else if bankOk then
    { r with
      timer := none
      forced := some ⟨a, some (r.actionValue a)⟩
      applied := r.actionValue a
      held := if a = .hold then some (r.actionValue a) else none
      drive := .forced }
  else { r with forced := some ⟨a, none⟩ }

/-- Entry into handover: R83, R84. A channel that cannot drive stays OFF, and keeps its remembered action (R105). -/
def Chan.handover (bankOk : Bool) (r : Chan) : Chan :=
  if r.config.range = .off ∨ bankOk = false then r
  else
    { r with
      drive := .holding
      held := some r.applied
      forced := none
      timer := if r.config.timeout = 0 then none else some r.config.timeout }

/-- The channel as the engine enters it for its owner's session: handover in RUN, the idle action in IDLE (R27, R106). -/
def Chan.enter (run bankOk : Bool) (r : Chan) : Chan :=
  if run then r.handover bankOk else r.force bankOk r.config.idleAction

/-- The channel as the grant of a claim leaves it (R27). -/
def Chan.grant (p : Port) (run bankOk : Bool) (r : Chan) : Chan :=
  Chan.enter run bankOk { r with own := .owned p, target := none }

/-- The channel as it is taken from its owner with an action (R34, R43, R48). -/
def Chan.release (bankOk : Bool) (a : Action) (r : Chan) : Chan :=
  { r.force bankOk a with own := .free }

/-- The channel as field loss leaves it (R115, R105). -/
def Chan.fieldLoss (r : Chan) : Chan :=
  { r with
    drive := .off
    applied := 0
    held := none
    timer := none
    forced :=
      match r.drive with
      | .off => r.forced
      | .forced => r.forced.map fun x => { x with value := none }
      | .holding | .ramping | .follow | .calibrating => none
    openLoadCount := 0
    deviationCount := 0 }

/-! ## The drive code -/

/-- The code formed from an applied value and a coefficient record, limited to the code limits (R96, R97). -/
def DriveRange.code (d : DriveRange) (k : Coeff) (a : Int) : Int :=
  clampInt d.lowestCode d.highestCode (roundDiv (a * (1000000 + k.gain) + k.offset * 1000000) 1000000)

/-- The drive code of a channel; none while its driver is disabled (R75, R82, R96). -/
def State.driveCode (s : State) (c : Channel) : Option Int :=
  let r := s.chan c
  match r.config.range, r.drive with
  | .off, _ => none
  | .driving _, .off => none
  | .driving d, .calibrating =>
    match s.cal with
    | some x =>
      match x.phase with
      | .low | .high => some r.applied
      | .opened | .computed | .committing => some (d.code (s.cell c d).effect r.applied)
    | none => some (d.code (s.cell c d).effect r.applied)
  | .driving d, .forced | .driving d, .holding | .driving d, .ramping | .driving d, .follow =>
    some (d.code (s.cell c d).effect r.applied)

/-! ## Notification queues -/

/-- The last record is an OVERFLOW record; its lost count. -/
def overflowTail (q : List Note) : Option (Nat × Half) :=
  match q.getLast? with
  | some ⟨.overflow n, t⟩ => some (n, t)
  | _ => none

/-- A record joins a queue that accepts records: R128. -/
def appendNote (n : Note) (q : List Note) : List Note :=
  match overflowTail q with
  | some (lost, t) =>
    if q.length + 1 < Config.queueCapacity then q ++ [n]
    else q.dropLast ++ [⟨.overflow (min 255 (lost + 1)), t⟩]
  | none =>
    if q.length + 1 < Config.queueCapacity then q ++ [n]
    else if q.length + 1 = Config.queueCapacity then q ++ [⟨.overflow 1, n.stamp⟩]
    else q

/-- A record made now: its timestamp is the unit counter (R131). -/
def State.note (s : State) (b : NoteBody) : Note := ⟨b, s.timebase.unitCounter⟩

/-- A record is handed to the queue of a port, which accepts it while the session is IDLE or RUN (R128, R129). -/
def State.notify (s : State) (p : Port) (b : NoteBody) : State :=
  if s.sessionOpen p then s.modQueue p (appendNote (s.note b)) else s

/-- Records are handed over in order. -/
def State.notifyAll (s : State) (l : List (Port × NoteBody)) : State :=
  l.foldl (fun t x => t.notify x.1 x.2) s

/-- A record is handed to the queue of every session in IDLE or RUN (R161). -/
def State.notifyOpen (s : State) (b : NoteBody) : State :=
  s.notifyAll (allPorts.map fun p => (p, b))

end Sys2Proof.Machine
end

