-- ==== Sys2Proof/Machine/Arbiter.lean ====
section
/-! DEFINITION. The claim arbiter's shared operations: grants, the grant pass, the order of the pending list, revocation and the withdrawal of sessions. -/

namespace Sys2Proof.Machine

/-! ## Grants -/

/-- The session of the port is RUN. -/
def State.running (s : State) (p : Port) : Bool := decide ((s.session p).state = .run)

/-- The grant of a set to the session of a port (R27). -/
def State.grant (s : State) (p : Port) (set : ChanSet) : State :=
  s.mapChans fun c r => if inSet set c then r.grant p (s.running p) (s.bankOk c) else r

/-- Every channel of the set is FREE: without an owner and not reserved. -/
def State.allFree (s : State) (set : ChanSet) : Bool :=
  allChannels.all fun c => !inSet set c || decide ((s.chan c).own = .free)

/-! ## The grant pass -/

/-- Every reservation is cleared (R28, step 1). -/
def State.clearReservations (s : State) : State :=
  s.mapChans fun _ r => if r.own = .reserved then { r with own := .free } else r

/-- The channels of the set that have no owner become RESERVED (R28, step 3). -/
def State.reserve (s : State) (set : ChanSet) : State :=
  s.mapChans fun c r => if inSet set c ∧ r.own = .free then { r with own := .reserved } else r

/-- The walk of the pending list (R28, steps 2 to 4). `headPlaced`: a claim that could not be granted has reserved
already. `kept`: the claims passed over so far, in list order. While no head is placed nothing is reserved, so "without
an owner" and FREE are one. -/
def State.walk : List Claim → Bool → List Claim → State → State
  | [], _, kept, s => { s with claims := kept }
  | k :: ks, headPlaced, kept, s =>
    if s.allFree k.set then
      walk ks headPlaced kept ((s.grant k.port k.set).notify k.port (.granted k.tag k.set))
    else if headPlaced then walk ks true (kept ++ [k]) s
    else walk ks true (kept ++ [k]) (s.reserve k.set)

/-- The grant pass (R28). -/
def State.grantPass (s : State) : State := State.walk s.claims false [] s.clearReservations

/-! ## The pending list -/

/-- A claim joins behind every claim of equal or higher priority (R23). -/
def insertClaim (k : Claim) : List Claim → List Claim
  | [] => [k]
  | x :: xs => if k.priority ≤ x.priority then x :: insertClaim k xs else k :: x :: xs

/-- A claim of this priority would be placed ahead of the head (R25, R39). -/
def State.aheadOfHead (s : State) (priority : Nat) : Bool :=
  match s.claims with
  | [] => true
  | x :: _ => decide (x.priority < priority)

/-- A channel stands without an owner and is not reserved by a claim ahead of the new one (R25). -/
def Chan.claimable (ahead : Bool) (r : Chan) : Bool :=
  match r.own with
  | .free => true
  | .reserved => ahead
  | .owned _ => false

/-- A new claim is grantable at its position (R25, R32 case 1). -/
def State.grantable (s : State) (ahead : Bool) (set : ChanSet) : Bool :=
  allChannels.all fun c => !inSet set c || (s.chan c).claimable ahead

/-- The preemption test on one channel (R33). -/
def State.preemptible (s : State) (ahead : Bool) (priority : Nat) (c : Channel) : Bool :=
  match (s.chan c).own with
  | .owned q =>
    decide ((s.session q).priority < priority) && (s.chan c).config.preemptible && !s.calNames c
  | .free | .reserved => (s.chan c).claimable ahead

/-- The preemption test of a claim (R33). -/
def State.preempts (s : State) (ahead : Bool) (priority : Nat) (set : ChanSet) : Bool :=
  allChannels.all fun c => !inSet set c || s.preemptible ahead priority c

/-- The owned channels of a set. -/
def State.ownedIn (s : State) (set : ChanSet) : List Channel :=
  allChannels.filter fun c => inSet set c && ((s.chan c).owner).isSome

/-- The set of the channels listed. -/
def chanSetOf (l : List Channel) : ChanSet := l.foldl (fun a c => a ||| BitVec.twoPow 16 c.val) 0

/-- Every owned channel of the set is revoked by a claim of port `p`, with its REVOKED record in ascending channel
number (R34). -/
def State.revoke (s : State) (p : Port) (set : ChanSet) : State :=
  (s.mapChans fun c r =>
      if inSet set c && r.owner.isSome then r.release (s.bankOk c) r.config.releaseAction else r).notifyAll
    ((s.ownedIn set).filterMap fun c => ((s.chan c).owner).map fun q => (q, NoteBody.revoked c p))

/-! ## Withdrawal -/

/-- Steps 1 to 3 of the withdrawal of the sessions `who` picks, with the action `pick` reads of a channel's
configuration (R48). The reservations of a head removed here are cleared by the grant pass that follows (R24, R28). -/
def State.withdraw (s : State) (who : Port → Bool) (pick : ChanConfig → Action) : State :=
  { s.mapChans fun c r =>
      match r.own with
      | .owned p => if who p then r.release (s.bankOk c) (pick r.config) else r
      | .free | .reserved => r with
    claims := s.claims.filter fun k => !(who k.port && s.ownsClaim k.port k)
    cal := s.cal.filter fun x => !(who x.port && s.holdsCal x.port) }

end Sys2Proof.Machine
end

