-- ==== Sys2Proof/Machine/Tick.lean ====
section
/-! DEFINITION. The paced events: what the monitor and the output engine do at an update tick, what a timer-unit event counts, and the events that fall due at them. -/

namespace Sys2Proof.Machine

/-! ## The monitor at an update tick -/

/-- The field count advanced by the level sampled (R114). A count of 2 while OK, or of 8 while LOST, is a field event
that is due. -/
def BankState.sample (high : Bool) (b : BankState) : BankState :=
  match b.field, high with
  | .ok, true => { b with count := 0 }
  | .ok, false => { b with count := b.count + 1 }
  | .lost, true => { b with count := b.count + 1 }
  | .lost, false => { b with count := 0 }

def BankState.lossDue (b : BankState) : Bool := decide (b.field = .ok) && decide (2 ≤ b.count)

def BankState.restoreDue (b : BankState) : Bool := decide (b.field = .lost) && decide (8 ≤ b.count)

/-- The readback sampled: limited to -12000 to 12000 (R10), and what an undriven output shows while the driver is
disabled (R115). -/
def Chan.measured (d : DriveRange) (loop : Int) (r : Chan) : Int :=
  if r.drive = .off then d.undriven else clampInt (-12000) 12000 loop

/-- Lowest applied value at which open load is evaluated, and lowest readback with loop current (R121). -/
def DriveRange.loopLimits : DriveRange → Option (Int × Int)
  | .v10 | .vb10 => none
  | .i20 => some (500, 200)
  | .i420 => some (-1875, -2250)

/-- Drive states in which open load is evaluated (R121). -/
def Drive.loopEvaluated : Drive → Bool
  | .forced | .holding | .ramping | .follow => true
  | .off | .calibrating => false

/-- Drive states in which deviation is evaluated (R123). -/
def Drive.deviationEvaluated : Drive → Bool
  | .forced | .holding | .follow => true
  | .off | .ramping | .calibrating => false

/-- A count after an evaluation: it rises when the tick contradicts the flag, else it returns to 0 (R122, R124). -/
def countNext (contradicts : Bool) (count : Nat) : Nat := if contradicts then count + 1 else 0

/-- The open-load count after the tick (R121, R122); 4 is a flag change that is due. -/
def Chan.openLoadNext (d : DriveRange) (high : Bool) (readback : Int) (r : Chan) : Nat :=
  match d.loopLimits with
  | none => 0
  | some (least, current) =>
    if r.drive.loopEvaluated && decide (least ≤ r.applied) && high then
      countNext (decide (current ≤ readback) == r.openLoad) r.openLoadCount
    else 0

/-- The deviation count after the tick (R123, R124); 3 is a flag change that is due. -/
def Chan.deviationNext (high : Bool) (readback : Int) (r : Chan) : Nat :=
  if r.drive.deviationEvaluated
      && decide ((r.applied - r.prevApplied).natAbs ≤ r.config.deviationLimit) && high then
    countNext (decide (r.config.deviationLimit < (readback - r.applied).natAbs) != r.deviation) r.deviationCount
  else 0

/-- The monitor's sampling and counting on one channel, before the engine steps it (R113, steps 2 and 3). -/
def Chan.sample (high : Bool) (loop : Int) (r : Chan) : Chan :=
  match r.config.range with
  | .off => r
  | .driving d =>
    { r with
      readback := r.measured d loop
      openLoadCount := r.openLoadNext d high (r.measured d loop)
      deviationCount := r.deviationNext high (r.measured d loop)
      prevApplied := r.applied }

/-- The monitor's sampling at a tick (R113, steps 1 to 3). -/
def State.monitor (s : State) (fieldSense : Vector Bool 4) (loopSense : Vector Int 16) : State :=
  (s.mapChans fun c r => r.sample fieldSense[bankOf c] loopSense[c]).mapBanks fun b x => x.sample fieldSense[b]

/-! ## The flag changes of the monitor -/

def Chan.openLoadDue (r : Chan) : Bool := decide (4 ≤ r.openLoadCount)

def Chan.deviationDue (r : Chan) : Bool := decide (3 ≤ r.deviationCount)

def Chan.flipOpenLoad (r : Chan) : Chan := { r with openLoad := !r.openLoad, openLoadCount := 0 }

def Chan.flipDeviation (r : Chan) : Chan := { r with deviation := !r.deviation, deviationCount := 0 }

/-- A record about a channel for its owner, if it has one. -/
def Chan.toOwner (r : Chan) (b : NoteBody) : List (Port × NoteBody) :=
  match r.owner with
  | some p => [(p, b)]
  | none => []

/-- Place of a flag change in the order of a tick's records: ascending channel number, open load first (R113, step 4). -/
def openLoadPlace (c : Channel) : Nat := 2 * c.val

def deviationPlace (c : Channel) : Nat := 2 * c.val + 1

/-- The channel after the flag changes due at places up to `n`. -/
def Chan.flagsTaken (n : Nat) (c : Channel) (r : Chan) : Chan :=
  let r := if r.openLoadDue && decide (openLoadPlace c ≤ n) then r.flipOpenLoad else r
  if r.deviationDue && decide (deviationPlace c ≤ n) then r.flipDeviation else r

/-- The records of the flag changes due on one channel at places up to `n` (R122, R124). -/
def Chan.flagNotes (n : Nat) (c : Channel) (r : Chan) : List (Port × NoteBody) :=
  (if r.openLoadDue && decide (openLoadPlace c ≤ n) then r.toOwner (.openLoad c !r.openLoad) else []) ++
    (if r.deviationDue && decide (deviationPlace c ≤ n) then r.toOwner (.deviation c !r.deviation) else [])

/-- The flag changes due at places up to `n` (R113, step 4; R122; R124). -/
def State.takeFlags (s : State) (n : Nat) : State :=
  (s.mapChans fun c r => r.flagsTaken n c).notifyAll (allChannels.flatMap fun c => (s.chan c).flagNotes n c)

/-- A flag change of the monitor is due. -/
def State.flagsDue (s : State) : Bool := allChannels.any fun c => (s.chan c).openLoadDue || (s.chan c).deviationDue

/-- Every flag change that is due. They belong to the monitor's event of the last tick, and their records to the owners
standing at it (R113, R125), so whatever comes after that event takes them first (notes/assumptions/2.md). -/
def State.takeAllFlags (s : State) : State := if s.flagsDue then s.takeFlags 31 else s

/-! ## The output engine at an update tick -/

/-- The channel reaches its target and enters FOLLOW (R77, R78, R80). -/
def Chan.arrive (t : Int) (r : Chan) : Chan :=
  { r with drive := .follow, applied := t, held := none, timer := none }

/-- The distance from `a` to `t` is at most `n`. -/
def within (n : Nat) (a t : Int) : Bool := decide ((t - a).natAbs ≤ n)

/-- A ramp step toward the target (R80). -/
def Chan.ramp (t : Int) (r : Chan) : Chan :=
  if within r.config.rampStep r.applied t then r.arrive t
  else { r with applied := moveToward r.config.rampStep r.applied t }

/-- The channel enters RAMPING (R79, R85). -/
def Chan.startRamp (r : Chan) : Chan := { r with drive := .ramping, held := none, timer := none }

/-- The value a HOLDING channel holds. -/
def Chan.heldValue (r : Chan) : Int := r.held.getD r.applied

/-- The engine's step of one channel: R75 to R82. `calValue`: what the phase of the calibration context gives. -/
def Chan.tick (calValue : Option Int) (r : Chan) : Chan :=
  match r.drive, r.target with
  | .off, _ | .forced, _ => r
  | .holding, none => r
  | .holding, some t =>
    match r.config.handover with
    | .step => r.arrive t
    | .matching => if within r.config.matchWindow r.heldValue t then r.arrive t else r
    | .ramp => r.startRamp.ramp t
  | .ramping, some t => r.ramp t
  | .ramping, none => r
  | .follow, some t =>
    if r.config.slewLimit = 0 then { r with applied := t }
    else { r with applied := moveToward r.config.slewLimit r.applied t }
  | .follow, none => r
  | .calibrating, _ => { r with applied := calValue.getD r.applied }

/-- The step ends a handover (R88). -/
def Chan.completes (r : Chan) (after : Chan) : Bool :=
  (decide (r.drive = .holding) || decide (r.drive = .ramping)) && decide (after.drive = .follow)

/-- What the phase of the context gives its channel to drive (R82). -/
def CalContext.driven (x : CalContext) : Int :=
  match x.phase with
  | .low => x.range.rawPoint .low
  | .high => x.range.rawPoint .high
  | .opened | .computed | .committing => x.start

def State.calValue (s : State) (c : Channel) : Option Int :=
  match s.cal with
  | some x => if x.channel = c then some x.driven else none
  | none => none

/-- The HANDOVER_DONE record of a step, for the owner (R88). -/
def Chan.doneNotes (c : Channel) (r after : Chan) : List (Port × NoteBody) :=
  if r.completes after then r.toOwner (.handoverDone c after.applied) else []

/-- The output engine takes an update tick (R74). -/
def State.stepChannels (s : State) : State :=
  { (s.mapChans fun c r => r.tick (s.calValue c)).notifyAll
      (allChannels.flatMap fun c => (s.chan c).doneNotes c ((s.chan c).tick (s.calValue c))) with
    stepDue := false }

/-- The engine's step, if it waits. The monitor takes the tick as one event before it, so the flag changes of the tick
come first, and a HANDOVER_DONE of the step follows their records (R113). -/
def State.takeStep (s : State) : State := if s.stepDue then s.takeAllFlags.stepChannels else s

/-! ## Field events -/

/-- The ports that own a channel of the bank, in ascending order (R117, R119). -/
def State.bankOwners (s : State) (b : Bank) : List Port :=
  allPorts.filter fun p => allChannels.any fun c => decide (bankOf c = b) && (s.chan c).ownedBy p

/-- The context names a channel of the bank, in a phase that a field loss aborts (R116). -/
def State.calAborted (s : State) (b : Bank) : Option CalContext :=
  s.cal.filter fun x => decide (bankOf x.channel = b) && decide (x.phase ≠ .committing)

/-- The field-loss event of a bank (R115 to R117). -/
def State.loseField (s : State) (b : Bank) : State :=
  let lost := (s.modBank b fun _ => ⟨.lost, 0⟩).mapChans fun c r => if bankOf c = b then r.fieldLoss else r
  let lost := { lost with cal := if (s.calAborted b).isSome then none else s.cal }
  lost.notifyAll
    ((s.bankOwners b).map (fun p => (p, NoteBody.fieldLost b)) ++
      (s.calAborted b).toList.map fun x => (x.port, NoteBody.calAborted x.channel))

/-- The channel as the restore of its bank leaves it (R106). `run`: its owner's session is RUN. -/
def Chan.restore (run : Bool) (r : Chan) : Chan :=
  match r.owner with
  | some _ => r.enter run true
  | none =>
    match r.forced with
    | some x => r.force true x.action
    | none => r.force true .hold

/-- The owner's session is RUN. -/
def State.ownerRunning (s : State) (r : Chan) : Bool :=
  match r.owner with
  | some p => s.running p
  | none => false

/-- The field-restore event of a bank (R118, R119). -/
def State.restoreField (s : State) (b : Bank) : State :=
  ((s.modBank b fun _ => ⟨.ok, 0⟩).mapChans fun c r =>
      if bankOf c = b then r.restore (s.ownerRunning r) else r).notifyAll
    ((s.bankOwners b).map fun p => (p, NoteBody.fieldRestored b))

/-- The field loss of a bank, if it is due; the flag changes of the tick come before it (R113, step 5). -/
def State.takeLoss (s : State) (b : Bank) : State :=
  if (s.bank b).lossDue then s.takeAllFlags.loseField b else s

/-- The field restore of a bank, if it is due. -/
def State.takeRestore (s : State) (b : Bank) : State :=
  if (s.bank b).restoreDue then s.takeAllFlags.restoreField b else s

/-- Every field event that is due, banks A to D. -/
def State.takeFieldEvents (s : State) : State :=
  allBanks.foldl (fun t b => (t.takeLoss b).takeRestore b) s

/-! ## The timer-unit event -/

/-- The tick count has reached M: a timer-unit event is due (R156). -/
def State.unitDue (s : State) : Bool := decide (s.timebase.multiple.ticks ≤ s.timebase.tickCount)

/-- The port is EXECUTING (R148). -/
def PortState.isExecuting (x : PortState) : Bool :=
  match x.transport with
  | .executing _ => true
  | .ready | .answered _ _ => false

/-- A lease counter at a timer-unit event (R67). A session renewed since the event fell due does not lapse at it: with a
lease period of 1 its counter stays (R69; notes/assumptions/30.md). -/
def Session.countLease (executing renewed : Bool) (x : Session) : Session :=
  if x.isOpen && !executing && !(renewed && decide (x.counter = 1)) then { x with counter := x.counter - 1 } else x

/-- A claim wait at a timer-unit event (R45). -/
def Claim.countWait (k : Claim) : Claim := { k with wait := k.wait.map fun n => n - 1 }

/-- A handover timer at a timer-unit event (R84). -/
def Chan.countTimer (r : Chan) : Chan :=
  if r.drive = .holding then { r with timer := r.timer.map fun n => n - 1 } else r

/-- The wait of the claim has reached 0 (R46). -/
def Claim.expired (k : Claim) : Bool := decide (k.wait = some 0)

/-- The lease counter of an open session has reached 0 (R68). -/
def Session.lapseDue (x : Session) : Bool := x.isOpen && decide (x.counter = 0)

/-- The claim arbiter counts the waits down (R45). -/
def State.countWaits (s : State) : State := { s with claims := s.claims.map Claim.countWait, waitsDue := false }

/-- The session block counts the leases down (R67), and no event waits for it any more. -/
def State.countLeases (s : State) : State :=
  { s.mapSessions fun p x => x.countLease (s.port p).isExecuting s.renewed[p] with
    leasesDue := false
    renewed := Vector.replicate 4 false }

/-- The count would bring a wait to 0: the arbiter takes the timer-unit event at CLAIM_WAIT_EXPIRY (R46). -/
def State.waitEnds (s : State) : Bool := s.claims.any fun k => k.countWait.expired

/-- The count would bring a lease counter to 0: the session block takes the timer-unit event at LAPSE (R68). -/
def State.leaseEnds (s : State) : Bool :=
  allPorts.any fun p => ((s.session p).countLease (s.port p).isExecuting s.renewed[p]).lapseDue

/-- The arbiter's and the session block's shares of a timer-unit event, each an event of its own (R157): counted here, but
one that ends a wait or a lease waits for the command of that event (notes/assumptions/1.md). -/
def State.shareUnit (s : State) : State :=
  let t := if s.waitEnds then { s with waitsDue := true } else s.countWaits
  if t.leaseEnds then { t with leasesDue := true } else t.countLeases

/-- A timer-unit event at the timebase and the output engine (R157, R84), with the shares of the other two blocks. A
handover timer that reaches 0 is an expiry that is due. -/
def State.countUnit (s : State) : State :=
  State.shareUnit
    { s.mapChans fun _ r => r.countTimer with
      timebase := { s.timebase with tickCount := 0, unitCounter := s.timebase.unitCounter + 1 } }

/-- The timer-unit event, if it is due. The flag changes of its tick come first: the monitor has taken the tick as one
event by then, and their records carry the unit counter as it stood (R113, R157; notes/assumptions/31.md). -/
def State.takeUnit (s : State) : State := if s.unitDue then s.takeAllFlags.countUnit else s

/-! ## What falls due at a timer-unit event -/

/-- The handover timer of a HOLDING channel has reached 0 (R84). -/
def Chan.timerDue (r : Chan) : Bool := decide (r.drive = .holding) && decide (r.timer = some 0)

/-- The channel at the expiry of its handover timer (R85, R86). -/
def Chan.expire (r : Chan) : Chan :=
  match r.target, r.config.handover with
  | some _, .matching => r.startRamp
  | some _, .step | some _, .ramp | none, _ => { r with timer := none }

/-- The record of the expiry, for the owner (R85, R86, R88). -/
def Chan.expiryNotes (c : Channel) (r : Chan) : List (Port × NoteBody) :=
  match r.target, r.config.handover with
  | some _, .matching => r.toOwner (.handoverForced c r.heldValue)
  | some _, .step | some _, .ramp => []
  | none, _ => r.toOwner (.handoverStalled c r.heldValue)

/-- The handover timer expiries due on channels up to number `n`, in ascending order (R88). -/
def State.takeExpiries (s : State) (n : Nat) : State :=
  (s.mapChans fun c r => if r.timerDue && decide (c.val ≤ n) then r.expire else r).notifyAll
    (allChannels.flatMap fun c =>
      if (s.chan c).timerDue && decide (c.val ≤ n) then (s.chan c).expiryNotes c else [])

/-- The expiry of every claim whose wait has reached 0, and the one grant pass of the event (R46). -/
def State.expireClaims (s : State) : State :=
  if s.claims.any Claim.expired then
    (State.notifyAll { s with claims := s.claims.filter fun k => !k.expired }
      ((s.claims.filter Claim.expired).map fun k => (k.port, NoteBody.claimExpired k.tag))).grantPass
  else s

/-- The arbiter takes the timer-unit event that waits, after the flag changes of its tick (R45, R46, R125). -/
def State.takeClaimExpiry (s : State) : State := if s.waitsDue then s.takeAllFlags.countWaits.expireClaims else s

/-- A LEASE_LAPSED record joins the queue of its session although the session is LAPSED by then (R129). -/
def State.noteLapse (s : State) (p : Port) : State := s.modQueue p (appendNote (s.note .leaseLapsed))

/-- The lapse of every session whose lease counter has reached 0: one event with one grant pass (R68). -/
def State.lapseSessions (s : State) : State :=
  if allPorts.any fun p => (s.session p).lapseDue then
    let withdrawn := s.withdraw (fun p => (s.session p).lapseDue) ChanConfig.lapseAction
    let lapsed := withdrawn.mapSessions fun _ x => if x.lapseDue then { x with state := .lapsed } else x
    (allPorts.filter fun p => (s.session p).lapseDue).foldl State.noteLapse lapsed.grantPass
  else s

/-- The session block takes the timer-unit event that waits, after the flag changes of its tick (R67, R68, R125). A
session that a REFRESH or WRITE has renewed since the event fell due does not lapse (R69). -/
def State.takeLapse (s : State) : State := if s.leasesDue then s.takeAllFlags.countLeases.lapseSessions else s

/-! ## Nothing due -/

/-- No event is due: every block has taken the last tick and the last timer-unit event, and every count stands within the
bounds the spec gives it between events. -/
def State.quiet (s : State) : Bool :=
  !s.stepDue && !s.flagsDue && !s.unitDue && !s.waitsDue && !s.leasesDue
    && (allChannels.all fun c => !(s.chan c).timerDue)
    && (allBanks.all fun b => !(s.bank b).lossDue && !(s.bank b).restoreDue)

/-- Every event that is due is taken, in one fixed order (notes/assumptions/2.md): the monitor's flag changes, the
engine's step, the field events, the timer-unit event, the handover timer expiries, the claim expiries, the lapses. -/
def State.takeDue (s : State) : State :=
  s.takeAllFlags.takeStep.takeFieldEvents.takeUnit.takeExpiries 15 |>.takeClaimExpiry.takeLapse

/-- The state in which the next update tick, an edge of MHOLD, or an accepted TIMEBASE WRITE finds the part: the last tick
was taken in full (R156, R160, R161; notes/assumptions/2.md). -/
def State.settled (s : State) : State := if s.quiet then s else s.takeDue

/-! ## The update tick -/

/-- Update ticks are produced: RESET has ended and the hold is released (R156, R161). -/
def State.ticking (s : State) : Bool := !s.resetAsserted && decide (s.timebase.hold = .released)

/-- The tick count rises by one, and the engine's step is due (R156). -/
def State.countTick (s : State) : State :=
  { s with timebase := { s.timebase with tickCount := s.timebase.tickCount + 1 }, stepDue := true }

/-- The tick at the monitor and the timebase, the last one being over (R113, R156). The monitor samples before the engine
steps (R113), and here before the timer-unit event that falls at the tick, too, with its handover expiries, claim expiries
and lapses, an order that R113 and R157 leave open: DESIGN CHOICE, unsafe (notes/assumptions/31.md). -/
def State.beginTick (s : State) (fieldSense : Vector Bool 4) (loopSense : Vector Int 16) : State :=
  (s.settled.monitor fieldSense loopSense).countTick

/-- An update tick (R156): the monitor takes it whole, flag changes and their records included, before the engine steps
(R113); the rest by `order`. -/
def State.updateTick (s : State) (fieldSense : Vector Bool 4) (loopSense : Vector Int 16) (order : TickOrder) : State :=
  if s.ticking then
    match order with
    | .whole => (s.beginTick fieldSense loopSense).settled
    | .stepFirst => (s.beginTick fieldSense loopSense).takeStep
    | .stepLast => s.beginTick fieldSense loopSense
    | .stepNow => s.takeStep
  else s

end Sys2Proof.Machine
end

