-- ==== Sys2Proof/Machine/Operands.lean ====
section
/-! DEFINITION. The operands of the request frames: field codes, the payload layout of each kind, and the CRC that closes a frame. -/

namespace Sys2Proof.Machine

/-! ## Bytes -/

/-- A 16-bit field from its two bytes, most significant first (R173). -/
def half (hi lo : Byte) : Half := hi ++ lo

/-- The two bytes of a 16-bit field, most significant first (R173). -/
def halfBytes (h : Half) : List Byte := [h.extractLsb' 8 8, h.extractLsb' 0 8]

/-- A signed 16-bit value (R173). -/
def signed (hi lo : Byte) : Int := (half hi lo).toInt

/-- The two bytes of a signed value (R173). -/
def signedBytes (v : Int) : List Byte := halfBytes (BitVec.ofInt 16 v)

/-- The four bytes of a signed value, at the field's limit when beyond it (R175). -/
def signed4Bytes (v : Int) : List Byte :=
  let w := BitVec.ofInt 32 (clampInt (-2147483647) 2147483647 v)
  [w.extractLsb' 24 8, w.extractLsb' 16 8, w.extractLsb' 8 8, w.extractLsb' 0 8]

def natByte (n : Nat) : Byte := BitVec.ofNat 8 n

def boolByte (b : Bool) : Byte := if b then 1 else 0

/-! ## The CRC -/

/-- One bit of the CRC, polynomial 1021H (R165). -/
def crcBit (r : Half) : Half := if r.msb then (r <<< 1) ^^^ 0x1021 else r <<< 1

/-- One byte of the CRC, most significant bit first (R165). -/
def crcByte (r : Half) (b : Byte) : Half :=
  crcBit (crcBit (crcBit (crcBit (crcBit (crcBit (crcBit (crcBit (r ^^^ (b ++ (0 : Byte))))))))))

/-- The 16-bit check over a list of bytes, initial value FFFFH (R165). -/
def crc16 (l : List Byte) : Half := l.foldl crcByte 0xFFFF

/-- The bytes of a frame that its CRC covers: kind, sequence number, epoch, length, payload (R165, R174). -/
def frameBody (kind : Byte) (f : Frame) : List Byte :=
  kind :: f.seq :: (halfBytes f.epoch ++ natByte f.payload.length :: f.payload)

/-- The frame's CRC is the computed one (R165). -/
def crcGood (kind : Byte) (f : Frame) : Bool := decide (crc16 (frameBody kind f) = f.crc)

/-- The frame with the payload bytes that its row leaves out. -/
def withLead (lead : List Byte) (f : Frame) : Frame := { f with payload := lead ++ f.payload }

/-- A frame of the kind whose payload, after the `lead` bytes its row leaves out, is `payload`, closed with its CRC. -/
def sealedFrame (kind : Byte) (lead : List Byte) (seq : Byte) (epoch : Half) (payload : List Byte) : Frame :=
  { seq, epoch, payload, crc := crc16 (frameBody kind ⟨seq, epoch, lead ++ payload, 0⟩) }

/-! ## Codes (R173, R174) -/

def kindOpen : Byte := 0x01
def kindClose : Byte := 0x02
def kindRefresh : Byte := 0x03
def kindMode : Byte := 0x04
def kindClaim : Byte := 0x10
def kindCancel : Byte := 0x11
def kindRelease : Byte := 0x12
def kindWrite : Byte := 0x20
def kindConfigure : Byte := 0x21
def kindRead : Byte := 0x22
def kindNotes : Byte := 0x30
def kindCal : Byte := 0x40
def kindTimebase : Byte := 0x50
def kindStatus : Byte := 0x60

/-- The fourteen kinds of R174. -/
def namedKinds : List Byte :=
  [kindOpen, kindClose, kindRefresh, kindMode, kindClaim, kindCancel, kindRelease, kindWrite, kindConfigure, kindRead,
    kindNotes, kindCal, kindTimebase, kindStatus]

/-- The fetch code (R165, R170). -/
def fetchCode : Byte := 0xA5

def stepBegin : Byte := 1
def stepDrive : Byte := 2
def stepMeasure : Byte := 3
def stepCompute : Byte := 4
def stepDefault : Byte := 5
def stepCommit : Byte := 6
def stepAbort : Byte := 7

/-- The seven CAL steps (R140, R173). -/
def calSteps : List Byte := [stepBegin, stepDrive, stepMeasure, stepCompute, stepDefault, stepCommit, stepAbort]

def variantRead : Byte := 0
def variantWrite : Byte := 1

def timebaseVariants : List Byte := [variantRead, variantWrite]

def channelOf (b : Byte) : Option Channel := if h : b.toNat < 16 then some ⟨b.toNat, h⟩ else none

def rangeOf (b : Byte) : Option Range :=
  match b.toNat with
  | 0 => some .off
  | 1 => some (.driving .v10)
  | 2 => some (.driving .vb10)
  | 3 => some (.driving .i20)
  | 4 => some (.driving .i420)
  | _ => none

def actionOf (b : Byte) : Option Action :=
  match b.toNat with
  | 0 => some .hold
  | 1 => some .zero
  | 2 => some .safe
  | _ => none

def handoverOf (b : Byte) : Option HandoverMode :=
  match b.toNat with
  | 0 => some .step
  | 1 => some .matching
  | 2 => some .ramp
  | _ => none

def yesNoOf (b : Byte) : Option Bool :=
  match b.toNat with
  | 0 => some false
  | 1 => some true
  | _ => none

def pointOf (b : Byte) : Option CalPoint :=
  match b.toNat with
  | 0 => some .low
  | 1 => some .high
  | _ => none

def periodOf (b : Byte) : Option Period :=
  match b.toNat with
  | 0 => some .us250
  | 1 => some .us500
  | 2 => some .ms1
  | 3 => some .ms2
  | 4 => some .ms4
  | _ => none

def multipleOf (b : Byte) : Option Multiple :=
  match b.toNat with
  | 0 => some .m8
  | 1 => some .m32
  | 2 => some .m128
  | _ => none

/-! ## Payload layouts (R174). `none`: the length is not the one the layout requires, which is answered FORMAT. -/

def noOperands : List Byte → Option Unit
  | [] => some ()
  | _ :: _ => none

def oneByte : List Byte → Option Byte
  | [b] => some b
  | _ => none

/-- OPEN: requested priority, lease period. -/
def openOperands : List Byte → Option (Byte × Byte)
  | [priority, lease] => some (priority, lease)
  | _ => none

structure ClaimOperands where
  tag : Byte
  set : ChanSet
  flags : Byte
  waitLimit : Byte
  deriving DecidableEq, Repr

def claimOperands : List Byte → Option ClaimOperands
  | [tag, hi, lo, flags, limit] => some ⟨tag, half hi lo, flags, limit⟩
  | _ => none

def releaseOperands : List Byte → Option ChanSet
  | [hi, lo] => some (half hi lo)
  | _ => none

/-- The entries of a WRITE: channel byte and signed value. -/
def writeEntries : List Byte → Option (List (Byte × Int))
  | [] => some []
  | c :: hi :: lo :: rest => (writeEntries rest).map fun l => (c, signed hi lo) :: l
  | [_] | [_, _] => none

def writeOperands : List Byte → Option (List (Byte × Int))
  | [] => none
  | n :: rest => if rest.length = 3 * n.toNat then writeEntries rest else none

/-- CONFIGURE as it arrives, its codes not yet checked. -/
structure ConfigureOperands where
  channel : Byte
  range : Byte
  preemptible : Byte
  handover : Byte
  matchWindow : Half
  slewLimit : Half
  rampStep : Half
  timeout : Byte
  idleAction : Byte
  lapseAction : Byte
  releaseAction : Byte
  safe : Int
  deviationLimit : Half
  deriving DecidableEq, Repr

def configureOperands : List Byte → Option ConfigureOperands
  | [c, range, pre, mode, w1, w0, s1, s0, r1, r0, timeout, idle, lapse, release, v1, v0, d1, d0] =>
    some ⟨c, range, pre, mode, half w1 w0, half s1 s0, half r1 r0, timeout, idle, lapse, release, signed v1 v0,
      half d1 d0⟩
  | _ => none

def readOperands : List Byte → Option (List Byte)
  | [] => none
  | n :: rest => if rest.length = n.toNat then some rest else none

/-- CAL MEASURE after its step code: point and measured value. -/
def measureOperands : List Byte → Option (Byte × Int)
  | [point, hi, lo] => some (point, signed hi lo)
  | _ => none

/-- TIMEBASE WRITE after its variant: period and multiple. -/
def timebaseOperands : List Byte → Option (Byte × Byte)
  | [period, multiple] => some (period, multiple)
  | _ => none

/-- A CAL or TIMEBASE payload with an unknown first byte: any length but 0 (R174). -/
def anyOperands : List Byte → Option Unit
  | [] => none
  | _ :: _ => some ()

/-! ## The configuration record of a CONFIGURE -/

/-- The numbers of the record lie within the bounds of R13. -/
def ChanConfig.inBounds (k : ChanConfig) : Bool :=
  decide (1 ≤ k.matchWindow) && decide (k.matchWindow ≤ 2000) && decide (k.slewLimit ≤ 10000)
    && decide (1 ≤ k.rampStep) && decide (k.rampStep ≤ 10000) && decide (k.timeout ≤ 255)
    && k.range.admits k.safe && decide (50 ≤ k.deviationLimit) && decide (k.deviationLimit ≤ 2000)

/-- The record a CONFIGURE names, if every code and bound is accepted (R11 check 5, R13). -/
def ConfigureOperands.record (a : ConfigureOperands) : Option ChanConfig :=
  match rangeOf a.range, yesNoOf a.preemptible, handoverOf a.handover, actionOf a.idleAction, actionOf a.lapseAction,
    actionOf a.releaseAction with
  | some range, some preemptible, some handover, some idle, some lapse, some release =>
    let k : ChanConfig :=
      { range, preemptible, handover, matchWindow := a.matchWindow.toNat, slewLimit := a.slewLimit.toNat
        rampStep := a.rampStep.toNat, timeout := a.timeout.toNat, idleAction := idle, lapseAction := lapse
        releaseAction := release, safe := a.safe, deviationLimit := a.deviationLimit.toNat }
    if k.inBounds then some k else none
  | _, _, _, _, _, _ => none

end Sys2Proof.Machine
end

