-- ==== Sys2Proof/Machine/Flags.lean ====
section
/-! DEFINITION. The flag bytes and indications the part reports: response flags, channel status flags, presence bits of records, attention outputs, lock indication. -/

namespace Sys2Proof.Machine

/-- Flag bits, bit 0 first, as a byte. The bits that R175 does not name (4 to 7 of the response flags, 6 and 7 of the
channel status flags, 5 to 7 of the presence byte, 4 to 7 of the bank states) are sent as 0: DESIGN CHOICE, unsafe, since
the spec is silent on them (notes/assumptions/29.md). -/
def flagByte : List Bool → Byte
  | [] => 0
  | b :: bs => (flagByte bs <<< 1) ||| boolByte b

/-- ATTNn is asserted while the queue of port n holds a record (R136); the queue flag shows the same (R137). -/
def State.attn (s : State) (p : Port) : Bool := !(s.queue p).isEmpty

/-- At least one session is IDLE or RUN, so that a TIMEBASE WRITE would be refused LOCKED (R158, R159). -/
def State.locked (s : State) : Bool := allPorts.any fun p => s.sessionOpen p

/-- The channel lies in the set of the head of the pending list (R17). -/
def State.reservedByHead (s : State) (c : Channel) : Bool :=
  match s.claims with
  | [] => false
  | k :: _ => inSet k.set c

/-- The flags byte of a frame a fetch returns: QUEUE, REPLAY, OVERRUN, CLAMPED (R171, R175). -/
def SentFrame.flags (x : SentFrame) : Byte := flagByte [x.queueFlag, x.replayFlag, x.overrunFlag, x.clampedFlag]

/-- The flags byte of a channel status record (R175). -/
def StatusRecord.flags (r : StatusRecord) : Byte :=
  flagByte [r.target.isSome, r.fieldOk, r.openLoad, r.deviation, r.calDefault, r.reservedByHead]

/-- The bank states of a STATUS response, bit 0 bank A, 1 being OK (R175). -/
def bankFlags (banks : Vector FieldState 4) : Byte := flagByte (banks.toList.map fun x => decide (x = .ok))

/-- Which fields of a notification record are present: channel, bank, tag, other port, value (R132, R175). -/
def NoteBody.presence : NoteBody → Byte
  | .granted _ _ => flagByte [false, false, true, false, true]
  | .revoked _ _ => flagByte [true, false, false, true, false]
  | .claimExpired _ => flagByte [false, false, true, false, false]
  | .handoverDone _ _ | .handoverForced _ _ | .handoverStalled _ _ => flagByte [true, false, false, false, true]
  | .fieldLost _ | .fieldRestored _ => flagByte [false, true, false, false, false]
  | .openLoad _ _ | .deviation _ _ => flagByte [true, false, false, false, true]
  | .holdOn | .holdOff => 0
  | .calAborted _ => flagByte [true, false, false, false, false]
  | .leaseLapsed => 0
  | .overflow _ => flagByte [false, false, false, false, true]

end Sys2Proof.Machine
end

