-- ==== Sys2Proof/Machine/Frames.lean ====
section
/-! DEFINITION. The bytes of the frames a fetch returns: codes of every reported field, the layouts of records and payloads, the frame with its CRC. -/

namespace Sys2Proof.Machine

/-- FFH stands for an absent port, owner or channel (R173). -/
def absentByte : Byte := 0xFF

def channelByte (c : Channel) : Byte := natByte c.val

def portByte (p : Port) : Byte := natByte p.val

def DriveRange.byte : DriveRange → Byte
  | .v10 => 1
  | .vb10 => 2
  | .i20 => 3
  | .i420 => 4

def Range.byte : Range → Byte
  | .off => 0
  | .driving d => d.byte

def SessionState.byte : SessionState → Byte
  | .closed => 0
  | .idle => 1
  | .run => 2
  | .lapsed => 3

def Ownership.byte : Ownership → Byte
  | .free => 0
  | .reserved => 1
  | .owned _ => 2

def Ownership.ownerByte : Ownership → Byte
  | .owned p => portByte p
  | .free | .reserved => absentByte

def Drive.byte : Drive → Byte
  | .off => 0
  | .forced => 1
  | .holding => 2
  | .ramping => 3
  | .follow => 4
  | .calibrating => 5

/-- The code of a calibration phase; an absent context is phase NONE. -/
def phaseByte : Option CalPhase → Byte
  | none => 0
  | some .opened => 1
  | some .low => 2
  | some .high => 3
  | some .computed => 4
  | some .committing => 5

def Period.byte : Period → Byte
  | .us250 => 0
  | .us500 => 1
  | .ms1 => 2
  | .ms2 => 3
  | .ms4 => 4

def Multiple.byte : Multiple → Byte
  | .m8 => 0
  | .m32 => 1
  | .m128 => 2

def HoldState.byte : HoldState → Byte
  | .released => 0
  | .asserted => 1

/-- Result codes (R176). -/
def Result.byte : Result → Byte
  | .ok => 0x00
  | .granted => 0x01
  | .queued => 0x02
  | .pending => 0x03
  | .noneHeld => 0x04
  | .starting => 0x05
  | .format => 0x06
  | .notOpen => 0x07
  | .lapsed => 0x08
  | .stale => 0x09
  | .alreadyOpen => 0x0A
  | .badArg => 0x0B
  | .notOwner => 0x0C
  | .notConfigured => 0x0D
  | .notIdle => 0x0E
  | .ownOverlap => 0x0F
  | .dupTag => 0x10
  | .busy => 0x11
  | .claimFull => 0x12
  | .notFound => 0x13
  | .calBusy => 0x14
  | .calState => 0x15
  | .calActive => 0x16
  | .fieldLost => 0x17
  | .outOfLimits => 0x18
  | .storeFailed => 0x19
  | .locked => 0x1A

/-- Kind codes of notification records (R175). -/
def NoteBody.kindByte : NoteBody → Byte
  | .granted _ _ => 0x01
  | .revoked _ _ => 0x02
  | .claimExpired _ => 0x03
  | .handoverDone _ _ => 0x04
  | .handoverForced _ _ => 0x05
  | .handoverStalled _ _ => 0x06
  | .fieldLost _ => 0x07
  | .fieldRestored _ => 0x08
  | .openLoad _ _ => 0x09
  | .deviation _ _ => 0x0A
  | .holdOn => 0x0B
  | .holdOff => 0x0C
  | .calAborted _ => 0x0D
  | .leaseLapsed => 0x0E
  | .overflow _ => 0x0F

/-- The place byte: the channel or the bank, or FFH (R175). -/
def NoteBody.placeByte : NoteBody → Byte
  | .revoked c _ | .handoverDone c _ | .handoverForced c _ | .handoverStalled c _ | .openLoad c _ | .deviation c _
  | .calAborted c => channelByte c
  | .fieldLost b | .fieldRestored b => natByte b.val
  | .granted _ _ | .claimExpired _ | .holdOn | .holdOff | .leaseLapsed | .overflow _ => absentByte

/-- The ident byte: the tag or the other port, or FFH (R175). -/
def NoteBody.identByte : NoteBody → Byte
  | .granted tag _ | .claimExpired tag => tag
  | .revoked _ other => portByte other
  | .handoverDone _ _ | .handoverForced _ _ | .handoverStalled _ _ | .fieldLost _ | .fieldRestored _ | .openLoad _ _
  | .deviation _ _ | .holdOn | .holdOff | .calAborted _ | .leaseLapsed | .overflow _ => absentByte

/-- The value field, 0000H when absent (R132, R175). -/
def NoteBody.valueBytes : NoteBody → List Byte
  | .granted _ set => halfBytes set
  | .handoverDone _ v | .handoverForced _ v | .handoverStalled _ v => signedBytes v
  | .openLoad _ b | .deviation _ b => [0, boolByte b]
  | .overflow n => halfBytes (BitVec.ofNat 16 n)
  | .revoked _ _ | .claimExpired _ | .fieldLost _ | .fieldRestored _ | .holdOn | .holdOff | .calAborted _
  | .leaseLapsed => [0, 0]

/-- The eight bytes of a notification record (R175). -/
def Note.bytes (n : Note) : List Byte :=
  [n.body.kindByte, n.body.presence, n.body.placeByte, n.body.identByte] ++ n.body.valueBytes ++ halfBytes n.stamp

/-- The twelve bytes of a channel status record (R175). -/
def StatusRecord.bytes (r : StatusRecord) : List Byte :=
  [channelByte r.channel, r.range.byte, r.own.byte, r.own.ownerByte, r.drive.byte, r.flags]
    ++ signedBytes (r.target.getD 0) ++ signedBytes r.applied ++ signedBytes r.readback

/-- The fifteen bytes of a STATUS payload (R175). -/
def StatusFields.bytes (x : StatusFields) : List Byte :=
  x.session.state.byte :: halfBytes x.session.epoch
    ++ [natByte x.session.priority, natByte x.session.lease, natByte x.session.counter, natByte x.pendingClaims,
      natByte x.queueCount, natByte x.crcErrors, natByte x.frameErrors, natByte x.overruns, x.hold.byte,
      bankFlags x.banks, natByte x.listLength, boolByte x.contextInUse]

/-- The payload bytes of a response (R175). -/
def Payload.bytes : Payload → List Byte
  | .empty => []
  | .opened epoch priority => halfBytes epoch ++ [natByte priority]
  | .claim tag revoked position => tag :: (halfBytes revoked ++ [natByte position])
  | .written clamped => natByte clamped.length :: clamped.flatMap fun x => channelByte x.1 :: signedBytes x.2
  | .configured c => [channelByte c]
  | .channels l => natByte l.length :: l.flatMap StatusRecord.bytes
  | .notes l => natByte l.length :: l.flatMap Note.bytes
  | .cal c phase => [c.elim absentByte channelByte, phaseByte phase]
  | .computed c phase gain offset =>
    [c.elim absentByte channelByte, phaseByte phase] ++ signed4Bytes gain ++ signed4Bytes offset
  | .committed c range generation k =>
    [channelByte c, phaseByte none, range.byte, generation] ++ signed4Bytes k.gain ++ signed4Bytes k.offset
  | .storeFailed c phase range => [channelByte c, phaseByte phase, range.byte]
  | .timebase period multiple units hold lock =>
    [period.byte, multiple.byte] ++ halfBytes units ++ [hold.byte, boolByte lock]
  | .timebaseSet period multiple => [period.byte, multiple.byte]
  | .status fields => fields.bytes

/-- The bytes of a response frame before its CRC (R175). -/
def SentFrame.body (x : SentFrame) : List Byte :=
  [x.kind, x.seq, x.result.byte, x.flags, natByte x.payload.bytes.length] ++ x.payload.bytes

/-- The bytes clocked out on SDO after the fetch code (R165, R170, R175). -/
def SentFrame.bytes (x : SentFrame) : List Byte := x.body ++ halfBytes (crc16 x.body)

end Sys2Proof.Machine
end

