-- ==== Sys2Proof/Machine/Port.lean ====
section
/-! DEFINITION. What a port does with a selection: the frame checks, overrun, STARTING, FORMAT, replay, the session gate, the response, and the fetch. -/

namespace Sys2Proof.Machine

/-! ## Responses -/

/-- What a block answers to a request. -/
structure Reply where
  result : Result
  clamped : Bool
  payload : Payload
  deriving DecidableEq, Repr

/-- A result without payload. -/
def plain (r : Result) : Reply := ⟨r, false, .empty⟩

/-- The response a reply makes to the frame of the kind and sequence number (R175). -/
def Reply.toResponse (kind seq : Byte) (r : Reply) : Response := ⟨kind, seq, r.result, r.clamped, r.payload⟩

/-- The port places a response in its buffer and becomes ANSWERED. -/
def State.answer (s : State) (p : Port) (r : Response) (replay : Bool) : State :=
  s.modPort p fun x => { x with transport := .answered r replay }

/-- A request completes: response placed, saved copy replaced, port ANSWERED (R169). -/
def State.complete (s : State) (p : Port) (kind seq : Byte) (r : Reply) : State :=
  s.modPort p fun x =>
    { x with
      transport := .answered (r.toResponse kind seq) false
      saved := some ⟨seq, kind, r.toResponse kind seq⟩ }

/-- A new selection begins on the port: the fetch selection before it, if any, is over (R165, R170). -/
def State.newSelection (s : State) (p : Port) : State := s.modPort p fun x => { x with sending := none }

/-! ## The session gate -/

/-- How the gate treats a kind (R56). -/
inductive GateClass where
  /-- OPEN, READ, STATUS, TIMEBASE. -/
  | exempt
  /-- CLOSE, NOTES: admitted in LAPSED too. -/
  | keeping
  /-- Every other kind. -/
  | gated
  deriving DecidableEq, Repr

/-- The refusal of the gate; `none` admits (R56). -/
def State.gate (s : State) (g : GateClass) (p : Port) (epoch : Half) : Option Result :=
  let x := s.session p
  match g, x.state with
  | .exempt, _ => none
  | _, .closed => some .notOpen
  | .gated, .lapsed => some .lapsed
  | _, _ => if epoch = x.epoch then none else some .stale

/-! ## A request frame -/

/-- A request that is neither refused at the port nor replayed goes to the gate, and to its block if admitted (R169).
A block that gives no reply has accepted a COMMIT: the port becomes EXECUTING (R148). `refusal` is the payload that a
gate refusal of the kind carries (R175). -/
def State.execute (s : State) (p : Port) (kind : Byte) (f : Frame) (g : GateClass) (refusal : Payload)
    (run : State → State × Option Reply) : State :=
  match s.gate g p f.epoch with
  | some r => s.complete p kind f.seq ⟨r, false, refusal⟩
  | none =>
    match run s with
    | (t, some r) => t.complete p kind f.seq r
    | (t, none) => t.modPort p fun x => { x with transport := .executing f.seq }

/-- The frame repeats the last executed request: its saved response (R168). -/
def PortState.replayOf (x : PortState) (kind seq : Byte) : Option Response :=
  match x.saved with
  | some c => if c.seq = seq ∧ c.kind = kind then some c.response else none
  | none => none

/-- A good frame on a READY port: STARTING, FORMAT, replay or execution (R167, R168). `operands` is none when the
length is not the one the kind's layout requires; `length` is L. -/
def State.takeFrame {α : Type} (s : State) (p : Port) (kind : Byte) (f : Frame) (length : Nat) (g : GateClass)
    (refusal : Payload) (operands : Option α) (run : α → State → State × Option Reply) : State :=
  if s.starting then s.answer p ((plain .starting).toResponse kind f.seq) false
  else if Config.maxPayload < length then s.answer p ((plain .format).toResponse kind f.seq) false
  else
    match operands with
    | none => s.answer p ((plain .format).toResponse kind f.seq) false
    | some a =>
      match (s.port p).replayOf kind f.seq with
      | some r => s.answer p r true
      | none => s.execute p kind f g refusal (run a)

/-- A frame discarded for its CRC (R165). -/
def State.countCrcError (s : State) (p : Port) : State :=
  s.modPort p fun x => { x with crcErrors := bumpCount x.crcErrors }

/-- A frame discarded as an overrun (R166). -/
def State.overrun (s : State) (p : Port) : State :=
  s.modPort p fun x => { x with overruns := bumpCount x.overruns, overrunPending := true }

/-- A complete request frame arrives: the CRC, then overrun, then R167 to R169. It comes after the tick whose flag
changes are due (R113, R125; notes/assumptions/2.md). `lead` holds the payload bytes that the command's row fixes. -/
def State.receive {α : Type} (s : State) (p : Port) (kind : Byte) (lead : List Byte) (f : Frame) (g : GateClass)
    (refusal : Payload) (operands : List Byte → Option α) (run : α → State → State × Option Reply) : State :=
  let t := s.takeAllFlags.newSelection p
  if crcGood kind (withLead lead f) then
    match (t.port p).transport with
    | .executing _ | .answered _ _ => t.overrun p
    | .ready => t.takeFrame p kind f (lead.length + f.payload.length) g refusal (operands f.payload) run
  else t.countCrcError p

/-! ## Fetching -/

/-- The frame fixed at a fetch, with the flags made there (R170, R171). -/
def State.fetchFrame (s : State) (p : Port) : SentFrame :=
  match (s.port p).transport with
  | .ready => ⟨0x00, 0x00, .noneHeld, s.attn p, false, false, false, .empty⟩
  | .executing seq => ⟨kindCal, seq, .pending, s.attn p, false, false, false, .empty⟩
  | .answered r replay => ⟨r.kind, r.seq, r.result, s.attn p, replay, (s.port p).overrunPending, r.clamped, r.payload⟩

/-- What SDOn carries where no byte of a frame is sent (R170). -/
def idleByte : Byte := 0xFF

/-- The byte that SDOn carries next on a selected port, after `received` bytes of the selection: the frame fixed at the
fetch from the byte that follows the fetch code, FFH during the fetch code, beyond the end of the frame, and throughout
a selection that carries a request frame (R165, R170). -/
def State.sdo (s : State) (p : Port) (received : List Byte) : Byte :=
  match received, (s.port p).sending with
  | first :: later, some x => if first = fetchCode then x.bytes.getD later.length idleByte else idleByte
  | _, _ => idleByte

/-- The frame is a response, not a NONE or PENDING frame. -/
def SentFrame.isResponse (x : SentFrame) : Bool := decide (x.result ≠ .noneHeld) && decide (x.result ≠ .pending)

/-- The selection of a fetch ends after the whole frame was clocked out: a response empties the buffer (R170). -/
def PortState.clockedOut (x : PortState) : PortState :=
  match x.sending, x.transport with
  | some f, .answered _ _ =>
    if f.isResponse then { x with transport := .ready, overrunPending := false, sending := none }
    else { x with sending := none }
  | _, _ => { x with sending := none }

end Sys2Proof.Machine
end

