-- ==== Sys2Proof/Machine/Calibration.lean ====
section
/-! DEFINITION. The CAL steps, the coefficient store and the completion of a commit. -/

namespace Sys2Proof.Machine

/-! ## Shared parts of the steps -/

/-- The reply of a step that carries the channel `c` and the phase after the step (R140, R175). -/
def calReply (r : Result) (c : Option Channel) (phase : Option CalPhase) : Reply := ⟨r, false, .cal c phase⟩

/-- The reply of a refused step: channel and phase of the context to its holder, FFH and NONE to any other (R140). -/
def State.calRefusal (s : State) (p : Port) (r : Result) : Reply :=
  match s.cal with
  | some x => if s.holdsCal p then calReply r (some x.channel) (some x.phase) else calReply r none none
  | none => calReply r none none

/-- The context, if the session of the port holds it (R140). -/
def State.heldContext (s : State) (p : Port) : Option CalContext := if s.holdsCal p then s.cal else none

/-- The phases in which DRIVE, DEFAULT and ABORT are taken (R140). -/
def CalPhase.working : CalPhase → Bool
  | .opened | .low | .high | .computed => true
  | .committing => false

/-- The context changed, with the channel's applied value as its phase gives it (R82, R142, R144, R145). -/
def State.setCal (s : State) (x : CalContext) : State :=
  { s.modChan x.channel fun r => { r with applied := x.driven } with cal := some x }

/-- The context closes and its channel is forced with its idle action (R102, R146, R150). -/
def State.closeCal (s : State) (c : Channel) : State :=
  { s.modChan c fun r => r.force (s.bankOk c) r.config.idleAction with cal := none }

/-! ## BEGIN -/

/-- The refusal of the checks of R141, or the context that BEGIN opens. -/
def State.beginCheck (s : State) (p : Port) (b : Byte) : Except Result CalContext :=
  match channelOf b with
  | none => .error .badArg
  | some c =>
    if s.cal.isSome then .error .calBusy
    else if !(s.chan c).ownedBy p then .error .notOwner
    else if s.running p then .error .notIdle
    else
      match (s.chan c).config.range with
      | .off => .error .notConfigured
      | .driving d =>
        if s.bankOk c then
          .ok { phase := .opened, port := p, epoch := (s.session p).epoch, channel := c, range := d
                start := (s.chan c).applied, measuredLow := none, measuredHigh := none, computed := none }
        else .error .fieldLost

/-- The channel of the new context leaves FORCED for CALIBRATING (R141). -/
def State.beginCal (s : State) (x : CalContext) : State :=
  { s.modChan x.channel fun r => { r with drive := .calibrating, forced := none, held := none, timer := none } with
    cal := some x }

/-- CAL BEGIN (R141). -/
def calBeginRequest (p : Port) (b : Byte) (s : State) : State × Option Reply :=
  match s.beginCheck p b with
  | .error r => (s, some (s.calRefusal p r))
  | .ok x => (s.beginCal x, some (calReply .ok (some x.channel) (some .opened)))

def execCalBegin (p : Port) (f : Frame) (s : State) : Host.Outcome State Fault Refusal :=
  .next (s.receive p kindCal [stepBegin] f .gated (.cal none none) oneByte (calBeginRequest p))

/-! ## DRIVE -/

/-- The phase of a point being driven. -/
def CalPoint.phase : CalPoint → CalPhase
  | .low => .low
  | .high => .high

/-- CAL DRIVE (R140, R142). -/
def calDriveRequest (p : Port) (b : Byte) (s : State) : State × Option Reply :=
  match s.heldContext p, pointOf b with
  | none, _ => (s, some (s.calRefusal p .calState))
  | some _, none => (s, some (s.calRefusal p .badArg))
  | some x, some point =>
    if x.phase.working then
      (s.setCal { x with phase := point.phase, computed := none },
        some (calReply .ok (some x.channel) (some point.phase)))
    else (s, some (s.calRefusal p .calState))

def execCalDrive (p : Port) (f : Frame) (s : State) : Host.Outcome State Fault Refusal :=
  .next (s.receive p kindCal [stepDrive] f .gated (.cal none none) oneByte (calDriveRequest p))

/-! ## MEASURE -/

/-- The measured value of a point is stored (R143). -/
def CalContext.measure (x : CalContext) (v : Int) : CalPoint → CalContext
  | .low => { x with measuredLow := some v }
  | .high => { x with measuredHigh := some v }

/-- CAL MEASURE (R140, R143). -/
def calMeasureRequest (p : Port) (a : Byte × Int) (s : State) : State × Option Reply :=
  match s.heldContext p, pointOf a.1 with
  | none, _ => (s, some (s.calRefusal p .calState))
  | some _, none => (s, some (s.calRefusal p .badArg))
  | some x, some point =>
    if a.2 < -12000 ∨ 12000 < a.2 then (s, some (s.calRefusal p .badArg))
    else if x.phase = point.phase then
      ({ s with cal := some (x.measure a.2 point) }, some (calReply .ok (some x.channel) (some x.phase)))
    else (s, some (s.calRefusal p .calState))

def execCalMeasure (p : Port) (f : Frame) (s : State) : Host.Outcome State Fault Refusal :=
  .next (s.receive p kindCal [stepMeasure] f .gated (.cal none none) measureOperands (calMeasureRequest p))

/-! ## COMPUTE -/

/-- The corrections formed from the measured values at the raw points, for `0 < mH - mL` (R144, steps 1 and 2). -/
def DriveRange.corrections (d : DriveRange) (mL mH : Int) : Coeff :=
  let span := d.rawPoint .high - d.rawPoint .low
  let gain := roundDiv ((span - (mH - mL)) * 1000000) (mH - mL).toNat
  ⟨gain, roundDiv (d.rawPoint .low * 1000000 - mL * (1000000 + gain)) 1000000⟩

/-- The corrections lie within the limits of R144. -/
def Coeff.inLimits (k : Coeff) : Bool :=
  decide (-50000 ≤ k.gain) && decide (k.gain ≤ 50000) && decide (-200 ≤ k.offset) && decide (k.offset ≤ 200)

/-- The reply of a COMPUTE that formed, or failed to form, corrections (R144, R175). -/
def computeReply (r : Result) (x : CalContext) (phase : CalPhase) (k : Coeff) : Reply :=
  ⟨r, false, .computed (some x.channel) (some phase) k.gain k.offset⟩

/-- COMPUTE on a context with both measured values (R144). -/
def State.compute (s : State) (x : CalContext) (mL mH : Int) : State × Option Reply :=
  if mH - mL ≤ 0 then (s, some (computeReply .outOfLimits x x.phase .default))
  else
    let k := x.range.corrections mL mH
    if k.inLimits then
      (s.setCal { x with phase := .computed, computed := some k }, some (computeReply .ok x .computed k))
    else (s, some (computeReply .outOfLimits x x.phase k))

/-- The phases in which COMPUTE is taken (R140). -/
def CalPhase.measurable : CalPhase → Bool
  | .low | .high | .computed => true
  | .opened | .committing => false

/-- CAL COMPUTE (R140, R144). -/
def calComputeRequest (p : Port) (_ : Unit) (s : State) : State × Option Reply :=
  match s.heldContext p with
  | none => (s, some (s.calRefusal p .calState))
  | some x =>
    match x.phase.measurable, x.measuredLow, x.measuredHigh with
    | true, some mL, some mH => s.compute x mL mH
    | _, _, _ => (s, some (s.calRefusal p .calState))

def execCalCompute (p : Port) (f : Frame) (s : State) : Host.Outcome State Fault Refusal :=
  .next (s.receive p kindCal [stepCompute] f .gated (.cal none none) noOperands (calComputeRequest p))

/-! ## DEFAULT -/

/-- CAL DEFAULT (R140, R145). -/
def calDefaultRequest (p : Port) (_ : Unit) (s : State) : State × Option Reply :=
  match s.heldContext p with
  | none => (s, some (s.calRefusal p .calState))
  | some x =>
    if x.phase.working then
      (s.setCal { x with phase := .computed, computed := some .default },
        some (calReply .ok (some x.channel) (some .computed)))
    else (s, some (s.calRefusal p .calState))

def execCalDefault (p : Port) (f : Frame) (s : State) : Host.Outcome State Fault Refusal :=
  .next (s.receive p kindCal [stepDefault] f .gated (.cal none none) noOperands (calDefaultRequest p))

/-! ## COMMIT -/

/-- CAL COMMIT: an accepted one gives no reply, and its port becomes EXECUTING (R140, R148). -/
def calCommitRequest (p : Port) (_ : Unit) (s : State) : State × Option Reply :=
  match s.heldContext p with
  | none => (s, some (s.calRefusal p .calState))
  | some x =>
    if x.phase = .computed then ({ s with cal := some { x with phase := .committing } }, none)
    else (s, some (s.calRefusal p .calState))

def execCalCommit (p : Port) (f : Frame) (s : State) : Host.Outcome State Fault Refusal :=
  .next (s.receive p kindCal [stepCommit] f .gated (.cal none none) noOperands (calCommitRequest p))

/-! ## ABORT and unknown steps -/

/-- CAL ABORT (R140, R146). -/
def calAbortRequest (p : Port) (_ : Unit) (s : State) : State × Option Reply :=
  match s.heldContext p with
  | none => (s, some (s.calRefusal p .calState))
  | some x =>
    if x.phase.working then (s.closeCal x.channel, some (calReply .ok (some x.channel) none))
    else (s, some (s.calRefusal p .calState))

def execCalAbort (p : Port) (f : Frame) (s : State) : Host.Outcome State Fault Refusal :=
  .next (s.receive p kindCal [stepAbort] f .gated (.cal none none) noOperands (calAbortRequest p))

/-- A step code that names none of the seven (R140). -/
def calUnknownRequest (p : Port) (_ : Unit) (s : State) : State × Option Reply := (s, some (s.calRefusal p .badArg))

def execCalUnknownStep (p : Port) (f : Frame) (s : State) : Host.Outcome State Fault Refusal :=
  .next (s.receive p kindCal [] f .gated (.cal none none) anyOperands (calUnknownRequest p))

/-! ## The coefficient store -/

/-- The check word that agrees with the other four fields of the slot (R147): a free value (notes/assumptions/10.md). -/
def Slot.agreeing (x : Slot) : Half :=
  Config.checkWord x.channel x.range.place x.generation x.coeff.gain x.coeff.offset

/-- A check word that does not agree with the other four fields: a free value other than the agreeing one
(notes/assumptions/10.md). -/
def Slot.disagreeing (x : Slot) : Half :=
  let e := Config.checkError x.channel x.range.place x.generation x.coeff.gain x.coeff.offset
  x.agreeing ^^^ (if e = 0 then 1 else e)

/-- The slot is valid: its channel-range is the one of its place and its check word agrees (R147). -/
def Slot.valid (c : Channel) (d : DriveRange) (x : Slot) : Bool :=
  decide (x.channel = c) && decide (x.range = d) && decide (x.check = x.agreeing)

/-- The newer of two slots (R147). -/
def newerSlot (c : Channel) (d : DriveRange) (slots : Vector Slot 2) : Option (Fin 2) :=
  match slots[0].valid c d, slots[1].valid c d with
  | true, true => if slots[1].generation = slots[0].generation + 1 then some 1 else some 0
  | true, false => some 0
  | false, true => some 1
  | false, false => none

/-- The older slot, which a COMMIT writes (R147, R149). -/
def Cell.older (x : Cell) : Fin 2 :=
  match x.newer with
  | some i => if i = 0 then 1 else 0
  | none => 0

/-- The generation a COMMIT writes (R149). -/
def Cell.nextGeneration (x : Cell) : Byte :=
  match x.newer with
  | some i => x.slots[i].generation + 1
  | none => 1

/-- The slot written whole for a channel-range (R149). -/
def Cell.writtenSlot (x : Cell) (c : Channel) (d : DriveRange) (k : Coeff) : Slot :=
  let fields : Slot := { channel := c, range := d, generation := x.nextGeneration, coeff := k, check := 0 }
  { fields with check := fields.agreeing }

/-- The older slot as the store wrote it; `good`: with an agreeing check word (R149, R151, R154). -/
def Cell.write (x : Cell) (c : Channel) (d : DriveRange) (k : Coeff) (good : Bool) : Cell :=
  let slot := x.writtenSlot c d k
  { x with slots := x.slots.set x.older (if good then slot else { slot with check := slot.disagreeing }) }

/-- The verified commit: the written slot becomes the newer and its record is in effect (R150, step 1). -/
def Cell.commit (x : Cell) (c : Channel) (d : DriveRange) (k : Coeff) : Cell :=
  { x.write c d k true with newer := some x.older, effect := k }

/-- What the start-up load makes of a channel-range (R147, R154). -/
def Cell.load (c : Channel) (d : DriveRange) (x : Cell) : Cell :=
  { x with
    newer := newerSlot c d x.slots
    effect :=
      match newerSlot c d x.slots with
      | some i => x.slots[i].coeff
      | none => .default }

/-- The driving range whose records stand at a place. -/
def rangeAt (i : Fin 4) : DriveRange :=
  match i with
  | 0 => .v10
  | 1 => .vb10
  | 2 => .i20
  | 3 => .i420

/-- The start-up load completes (R154). -/
def State.loadStore (s : State) : State :=
  { s with
    store := Vector.ofFn fun c => Vector.ofFn fun i => ((s.store[c])[i]).load c (rangeAt i)
    starting := false }

/-- START_UP_LOAD_COMPLETION: the load runs from the end of RESET while STARTING is set (R154). -/
def execStartUpLoadCompletion (s : State) : Host.Outcome State Fault Refusal :=
  if s.starting && !s.resetAsserted then .next s.takeAllFlags.loadStore else .next s

/-! ## The completion of a commit -/

/-- The context of a commit in progress (R148). -/
def State.committing (s : State) : Option CalContext := s.cal.filter fun x => decide (x.phase = .committing)

/-- The record that the commit writes. -/
def CalContext.record (x : CalContext) : Coeff := x.computed.getD .default

/-- The sequence number of the COMMIT that the port is executing (R169). -/
def PortState.commitSeq (x : PortState) : Byte :=
  match x.transport with
  | .executing seq => seq
  | .ready | .answered _ _ => 0

/-- The completion at which the slot reads back as written (R150). -/
def State.commitDone (s : State) (x : CalContext) : State :=
  let cell := s.cell x.channel x.range
  (((s.modCell x.channel x.range fun k => k.commit x.channel x.range x.record).modChan x.channel fun r =>
        { r with calDefault := decide (x.record = Coeff.default) }).closeCal x.channel).complete
    x.port kindCal (s.port x.port).commitSeq
    ⟨.ok, false, .committed x.channel x.range cell.nextGeneration x.record⟩

/-- The completion at which it does not (R151). -/
def State.commitFailed (s : State) (x : CalContext) : State :=
  let t := s.modCell x.channel x.range fun k => k.write x.channel x.range x.record false
  if (s.chan x.channel).drive = .calibrating then
    ({ t with cal := some { x with phase := .computed } }).complete x.port kindCal (s.port x.port).commitSeq
      ⟨.storeFailed, false, .storeFailed x.channel (some .computed) x.range⟩
  else
    ((t.closeCal x.channel).notify x.port (.calAborted x.channel)).complete x.port kindCal
      (s.port x.port).commitSeq ⟨.storeFailed, false, .storeFailed x.channel none x.range⟩

/-- The completion of the store (R150, R151), if a commit is in progress. -/
def State.completeCommit (s : State) (verified : Bool) : State :=
  match s.committing with
  | some x => if verified then s.commitDone x else s.commitFailed x
  | none => s

def execCommitCompletion (verified : Bool) (s : State) : Host.Outcome State Fault Refusal :=
  .next (s.takeAllFlags.completeCommit verified)

end Sys2Proof.Machine
end

