-- ==== Sys2Proof/Machine/Events.lean ====
section
/-! DEFINITION. RESET and its end, the selections that carry no executable request, and the paced events as commands. -/

namespace Sys2Proof.Machine

/-! ## RESET -/

/-- The store after RESET: the slots are nonvolatile; a slot that was being written is invalid or complete (R147,
R154). What the load sets anew stands at the values of `State.reset` (notes/assumptions/9.md). -/
def State.storeAfterReset (s : State) (slotComplete : Bool) : Vector (Vector Cell 4) 16 :=
  let t :=
    match s.committing with
    | some x => s.modCell x.channel x.range fun k => k.write x.channel x.range x.record slotComplete
    | none => s
  t.store.map fun row => row.map fun k => { k with newer := none, effect := .default }

/-- RESET is asserted: every block takes its reset values (R2, R22, R52, R73, R112, R127, R139, R155, R164); the
commands that wait go on waiting (notes/assumptions/19.md). -/
def execReset (slotComplete : Bool) (s : State) : Host.Outcome State Fault Refusal :=
  .next { State.reset with store := s.storeAfterReset slotComplete, pending := s.pending }

/-- The ceiling that the two strap pins PCnB:PCnA give (R55). -/
def strapCeiling (b : BitVec 2) : Nat := 2 * b.toNat + 1

/-- RESET ends: straps and MHOLD are sampled, the part is STARTING (R55, R154, R162). -/
def State.endReset (s : State) (straps : Vector (BitVec 2) 4) (mhold : Bool) : State :=
  { s with
    ceilings := straps.map strapCeiling
    timebase := { s.timebase with hold := if mhold then .asserted else .released }
    starting := true
    resetAsserted := false }

def execResetEnd (straps : Vector (BitVec 2) 4) (mhold : Bool) (s : State) : Host.Outcome State Fault Refusal :=
  if s.resetAsserted then .next (s.endReset straps mhold) else .next s

/-! ## Selections without an executable request -/

/-- A complete frame whose kind names none of the fourteen: FORMAT, once it has passed the CRC, overrun and STARTING
(R165 to R167). -/
def execUnknownKindFrame (p : Port) (kind : Byte) (f : Frame) (s : State) : Host.Outcome State Fault Refusal :=
  .next (s.receive p kind [] f .exempt .empty (fun _ => (none : Option Unit)) fun _ t => (t, none))

/-- A complete frame whose CRC differs (R165). -/
def execCrcErrorFrame (p : Port) (kind : Byte) (f : Frame) (s : State) : Host.Outcome State Fault Refusal :=
  if crcGood kind f then .next s else .next ((s.takeAllFlags.newSelection p).countCrcError p)

/-- The bytes received make a complete frame: byte 4 is L and 7 + L bytes are there (R165). -/
def frameComplete (l : List Byte) : Bool :=
  match l with
  | _ :: _ :: _ :: _ :: n :: rest => decide (n.toNat + 2 ≤ rest.length)
  | _ => false

/-- The bytes open a request frame that is not complete (R165). -/
def frameCutShort (l : List Byte) : Bool :=
  match l with
  | [] => false
  | b :: _ => decide (b ≠ fetchCode) && !frameComplete l

/-- A frame discarded because its selection ended early (R165). -/
def State.countFrameError (s : State) (p : Port) : State :=
  s.modPort p fun x => { x with frameErrors := bumpCount x.frameErrors }

/-- A selection that ended before its frame was complete; one that ended before a byte was received, and a fetch
selection, have no effect (R165, R170). -/
def execFrameError (p : Port) (received : List Byte) (s : State) : Host.Outcome State Fault Refusal :=
  if frameCutShort received then .next ((s.takeAllFlags.newSelection p).countFrameError p) else .next s

/-- The fetch code is received (R170). -/
def State.fetch (s : State) (p : Port) : State := s.modPort p fun x => { x with sending := some (s.fetchFrame p) }

def execFetch (p : Port) (s : State) : Host.Outcome State Fault Refusal := .next (s.takeAllFlags.fetch p)

/-- The fetch selection ends after the whole frame (R170). -/
def execResponseClockedOut (p : Port) (s : State) : Host.Outcome State Fault Refusal :=
  .next (s.takeAllFlags.modPort p PortState.clockedOut)

/-! ## Paced events -/

def execUpdateTick (fieldSense : Vector Bool 4) (loopSense : Vector Int 16) (order : TickOrder) (s : State) :
    Host.Outcome State Fault Refusal :=
  .next (s.updateTick fieldSense loopSense order)

def execTimerUnitEvent (s : State) : Host.Outcome State Fault Refusal := .next s.takeUnit

def execLapse (s : State) : Host.Outcome State Fault Refusal := .next s.takeLapse

def execClaimWaitExpiry (s : State) : Host.Outcome State Fault Refusal := .next s.takeClaimExpiry

/-- The expiry on channel `c`, after the flag changes of the tick (R113) and the expiries due on lower channels (R88). -/
def execHandoverTimerExpiry (c : Channel) (s : State) : Host.Outcome State Fault Refusal :=
  if (s.chan c).timerDue then .next (s.takeAllFlags.takeExpiries c.val) else .next s

def execFieldLoss (b : Bank) (s : State) : Host.Outcome State Fault Refusal := .next (s.takeLoss b)

def execFieldRestore (b : Bank) (s : State) : Host.Outcome State Fault Refusal := .next (s.takeRestore b)

/-- The open-load flag change of channel `c`, after the flag changes that precede it (R113, R122). -/
def execOpenLoadFlagChange (c : Channel) (s : State) : Host.Outcome State Fault Refusal :=
  if (s.chan c).openLoadDue then .next (s.takeFlags (openLoadPlace c)) else .next s

/-- The deviation flag change of channel `c`, after the flag changes that precede it (R113, R124). -/
def execDeviationFlagChange (c : Channel) (s : State) : Host.Outcome State Fault Refusal :=
  if (s.chan c).deviationDue then .next (s.takeFlags (deviationPlace c)) else .next s

end Sys2Proof.Machine
end

