-- ==== Sys2Proof/Decode.lean ====
section
/-! DEFINITION. From the bytes of a selection to the command it is, and back. The opcode table gives no row any bits, so a table word spells no command. -/

namespace Sys2Proof

open Sys2Proof.Machine

/-- The opcode table gives no row bits (notes/assumptions/25.md). -/
def decodeTableWord (_nbits _w : Nat) : Option Instr := none

/-- The frame that complete bytes after the kind byte make, and nothing of what follows it (R165, R174). -/
def frameOf (seq epochHi epochLo length : Byte) (rest : List Byte) : Frame where
  seq := seq
  epoch := half epochHi epochLo
  payload := rest.take length.toNat
  crc :=
    match rest.drop length.toNat with
    | hi :: lo :: _ => half hi lo
    | _ => 0

/-- The frame without its first payload byte, which the row fixes. -/
def withoutLead (f : Frame) : Frame := { f with payload := f.payload.tail }

/-- A CAL frame by its step code (R140, R174). -/
def calCommand (p : Port) (f : Frame) : Instr :=
  match f.payload with
  | [] => .calUnknownStep p f
  | step :: _ =>
    if step = stepBegin then .calBegin p (withoutLead f)
    else if step = stepDrive then .calDrive p (withoutLead f)
    else if step = stepMeasure then .calMeasure p (withoutLead f)
    else if step = stepCompute then .calCompute p (withoutLead f)
    else if step = stepDefault then .calDefault p (withoutLead f)
    else if step = stepCommit then .calCommit p (withoutLead f)
    else if step = stepAbort then .calAbort p (withoutLead f)
    else .calUnknownStep p f

/-- A TIMEBASE frame by its variant (R159, R174). -/
def timebaseCommand (p : Port) (f : Frame) : Instr :=
  match f.payload with
  | [] => .timebaseUnknownVariant p f
  | variant :: _ =>
    if variant = variantRead then .timebaseRead p (withoutLead f)
    else if variant = variantWrite then .timebaseWrite p (withoutLead f)
    else .timebaseUnknownVariant p f

/-- A complete frame with a good CRC by its kind byte (R167, R174). -/
def kindCommand (p : Port) (kind : Byte) (f : Frame) : Instr :=
  if kind = kindOpen then .openSession p f
  else if kind = kindClose then .closeSession p f
  else if kind = kindRefresh then .refresh p f
  else if kind = kindMode then .mode p f
  else if kind = kindClaim then .claim p f
  else if kind = kindCancel then .cancel p f
  else if kind = kindRelease then .release p f
  else if kind = kindWrite then .write p f
  else if kind = kindConfigure then .configure p f
  else if kind = kindRead then .read p f
  else if kind = kindNotes then .notes p f
  else if kind = kindCal then calCommand p f
  else if kind = kindTimebase then timebaseCommand p f
  else if kind = kindStatus then .status p f
  else .unknownKindFrame p kind f

/-- The command that a selection of the port is, by the bytes received in it (R165, R170). A selection that ended
before one whole byte is no command. -/
def commandOfSelection (p : Port) (received : List Byte) : Option Instr :=
  match received with
  | [] => none
  | kind :: rest =>
    if kind = fetchCode then some (.fetch p)
    else
      match rest with
      | seq :: hi :: lo :: length :: tail =>
        if frameComplete received then
          let f := frameOf seq hi lo length tail
          some (if crcGood kind f then kindCommand p kind f else .crcErrorFrame p kind f)
        else some (.frameError p received)
      | _ => some (.frameError p received)

/-- The bytes of a frame on the line, its CRC after its body (R165, R174). -/
def lineBytes (kind : Byte) (f : Frame) : List Byte := frameBody kind f ++ halfBytes f.crc

/-- The selection that a command is; `none` for a command that is not the start or the whole of a selection. -/
def selectionOf : Instr → Option (Port × List Byte)
  | .openSession p f => some (p, lineBytes kindOpen f)
  | .closeSession p f => some (p, lineBytes kindClose f)
  | .refresh p f => some (p, lineBytes kindRefresh f)
  | .mode p f => some (p, lineBytes kindMode f)
  | .claim p f => some (p, lineBytes kindClaim f)
  | .cancel p f => some (p, lineBytes kindCancel f)
  | .release p f => some (p, lineBytes kindRelease f)
  | .write p f => some (p, lineBytes kindWrite f)
  | .configure p f => some (p, lineBytes kindConfigure f)
  | .read p f => some (p, lineBytes kindRead f)
  | .notes p f => some (p, lineBytes kindNotes f)
  | .calBegin p f => some (p, lineBytes kindCal (withLead [stepBegin] f))
  | .calDrive p f => some (p, lineBytes kindCal (withLead [stepDrive] f))
  | .calMeasure p f => some (p, lineBytes kindCal (withLead [stepMeasure] f))
  | .calCompute p f => some (p, lineBytes kindCal (withLead [stepCompute] f))
  | .calDefault p f => some (p, lineBytes kindCal (withLead [stepDefault] f))
  | .calCommit p f => some (p, lineBytes kindCal (withLead [stepCommit] f))
  | .calAbort p f => some (p, lineBytes kindCal (withLead [stepAbort] f))
  | .calUnknownStep p f => some (p, lineBytes kindCal f)
  | .timebaseRead p f => some (p, lineBytes kindTimebase (withLead [variantRead] f))
  | .timebaseWrite p f => some (p, lineBytes kindTimebase (withLead [variantWrite] f))
  | .timebaseUnknownVariant p f => some (p, lineBytes kindTimebase f)
  | .status p f => some (p, lineBytes kindStatus f)
  | .unknownKindFrame p kind f => some (p, lineBytes kind f)
  | .crcErrorFrame p kind f => some (p, lineBytes kind f)
  | .frameError p received => some (p, received)
  | .fetch p => some (p, [fetchCode])
  | .reset _ | .resetEnd _ _ | .startUpLoadCompletion | .responseClockedOut _ | .updateTick _ _ _ | .timerUnitEvent
  | .lapse | .claimWaitExpiry | .handoverTimerExpiry _ | .fieldLoss _ | .fieldRestore _ | .openLoadFlagChange _
  | .deviationFlagChange _ | .holdAssertion | .holdRelease | .commitCompletion _ => none

end Sys2Proof
end

