-- ==== Sys2Proof/Machine/Sessions.lean ====
section
/-! DEFINITION. OPEN, CLOSE, REFRESH and MODE. -/

namespace Sys2Proof.Machine

/-! ## OPEN -/

/-- The epoch counter wraps from 65535 to 1 (R54). -/
def nextEpoch (e : Half) : Half := if e = 0xFFFF then 1 else e + 1

/-- The accepted OPEN (R59, steps 1 to 6). The new session has not been renewed. -/
def State.openAs (s : State) (p : Port) (priority lease : Nat) : State :=
  { (s.modSession p fun _ =>
      { state := .idle, epoch := nextEpoch s.epochCounter, priority := min priority (s.ceiling p), lease := lease
        counter := lease }).modQueue p fun _ => [] with
    epochCounter := nextEpoch s.epochCounter
    renewed := s.renewed.set p false }

/-- OPEN (R59). -/
def openRequest (p : Port) (a : Byte × Byte) (s : State) : State × Option Reply :=
  if s.sessionOpen p then (s, some (plain .alreadyOpen))
  else if 7 < a.1.toNat ∨ a.2 = 0 then (s, some (plain .badArg))
  else
    (s.openAs p a.1.toNat a.2.toNat,
      some ⟨.ok, false, .opened (nextEpoch s.epochCounter) (min a.1.toNat (s.ceiling p))⟩)

def execOpenSession (p : Port) (f : Frame) (s : State) : Host.Outcome State Fault Refusal :=
  .next (s.receive p kindOpen [] f .exempt .empty openOperands (openRequest p))

/-! ## CLOSE -/

/-- The queue of the port is cleared and its context takes the values of a CLOSED session (R71, steps 2 and 3; R72). -/
def State.clearSession (s : State) (p : Port) : State :=
  (s.modQueue p fun _ => []).modSession p fun _ => .closedContext

/-- CLOSE (R71, R72). -/
def closeRequest (p : Port) (_ : Unit) (s : State) : State × Option Reply :=
  if s.sessionOpen p then
    (((s.withdraw (fun q => q = p) ChanConfig.releaseAction).grantPass).clearSession p, some (plain .ok))
  else (s.clearSession p, some (plain .ok))

def execCloseSession (p : Port) (f : Frame) (s : State) : Host.Outcome State Fault Refusal :=
  .next (s.receive p kindClose [] f .keeping .empty noOperands (closeRequest p))

/-! ## REFRESH -/

/-- The lease counter takes the lease period (R66). A session so renewed while a timer-unit event waits for the session
block does not lapse at that event (R69). -/
def State.refreshLease (s : State) (p : Port) : State :=
  { s.modSession p fun x => { x with counter := x.lease } with
    renewed := if s.unitDue || s.leasesDue then s.renewed.set p true else s.renewed }

/-- REFRESH (R66). -/
def refreshRequest (p : Port) (_ : Unit) (s : State) : State × Option Reply := (s.refreshLease p, some (plain .ok))

def execRefresh (p : Port) (f : Frame) (s : State) : Host.Outcome State Fault Refusal :=
  .next (s.receive p kindRefresh [] f .gated .empty noOperands (refreshRequest p))

/-! ## MODE -/

/-- The session goes to RUN and its channels enter handover (R63). -/
def State.goRun (s : State) (p : Port) : State :=
  (s.modSession p fun x => { x with state := .run }).mapChans fun c r =>
    if r.ownedBy p then r.handover (s.bankOk c) else r

/-- The session goes to IDLE and its channels enter their idle actions (R64). -/
def State.goIdle (s : State) (p : Port) : State :=
  (s.modSession p fun x => { x with state := .idle }).mapChans fun c r =>
    if r.ownedBy p then r.force (s.bankOk c) r.config.idleAction else r

/-- MODE (R62). -/
def modeRequest (p : Port) (mode : Byte) (s : State) : State × Option Reply :=
  match mode.toNat with
  | 0 => if s.running p then (s.goIdle p, some (plain .ok)) else (s, some (plain .ok))
  | 1 =>
    if s.running p then (s, some (plain .ok))
    else if s.holdsCal p then (s, some (plain .calActive))
    else (s.goRun p, some (plain .ok))
  | _ => (s, some (plain .badArg))

def execMode (p : Port) (f : Frame) (s : State) : Host.Outcome State Fault Refusal :=
  .next (s.receive p kindMode [] f .gated .empty oneByte (modeRequest p))

end Sys2Proof.Machine
end

