-- ==== Sys2Proof/Machine/Channels.lean ====
section
/-! DEFINITION. WRITE, CONFIGURE and READ. -/

namespace Sys2Proof.Machine

/-! ## WRITE -/

/-- The entries with their channels, if every channel number is 0 to 15. -/
def namedEntries : List (Byte × Int) → Option (List (Channel × Int))
  | [] => some []
  | x :: xs =>
    match channelOf x.1, namedEntries xs with
    | some c, some l => some ((c, x.2) :: l)
    | _, _ => none

/-- The value clamped to the limits of the channel's range (R92). -/
def State.clampTo (s : State) (c : Channel) (v : Int) : Int :=
  clampInt (s.chan c).config.range.lower (s.chan c).config.range.upper v

/-- The entries that were clamped, with the values stored, in the order of the request (R92). -/
def State.clampedEntries (s : State) (l : List (Channel × Int)) : List (Channel × Int) :=
  (l.filter fun x => decide (s.clampTo x.1 x.2 ≠ x.2)).map fun x => (x.1, s.clampTo x.1 x.2)

/-- Every entry's clamped value becomes the target of its channel (R92). -/
def State.storeTargets (s : State) (l : List (Channel × Int)) : State :=
  s.mapChans fun c r =>
    match l.find? fun x => decide (x.1 = c) with
    | some x => { r with target := some (s.clampTo c x.2) }
    | none => r

/-- The refusal of the checks of R91 that follow check 1, if one fails. -/
def State.writeCheck (s : State) (p : Port) (l : List (Channel × Int)) : Option Result :=
  if !(l.map Prod.fst).Nodup then some .badArg
  else if !l.all fun x => (s.chan x.1).ownedBy p then some .notOwner
  else if !l.all fun x => (s.chan x.1).ranged then some .notConfigured
  else none

/-- WRITE (R91, R92). -/
def writeRequest (p : Port) (a : List (Byte × Int)) (s : State) : State × Option Reply :=
  if a.length = 0 ∨ 8 < a.length then (s, some (plain .badArg))
  else
    match namedEntries a with
    | none => (s, some (plain .badArg))
    | some l =>
      match s.writeCheck p l with
      | some r => (s, some (plain r))
      | none =>
        ((s.storeTargets l).refreshLease p,
          some ⟨.ok, !(s.clampedEntries l).isEmpty, .written (s.clampedEntries l)⟩)

def execWrite (p : Port) (f : Frame) (s : State) : Host.Outcome State Fault Refusal :=
  .next (s.receive p kindWrite [] f .gated .empty writeOperands (writeRequest p))

/-! ## CONFIGURE -/

/-- The channel record that a change of range leaves before its drive is entered (R14, steps 1 to 4; R126). -/
def Chan.rangeCleared (k : ChanConfig) (calDefault : Bool) (r : Chan) : Chan :=
  { r with
    config := k
    applied := 0
    target := none
    held := none
    forced := none
    timer := none
    openLoad := false
    openLoadCount := 0
    deviation := false
    deviationCount := 0
    readback := 0
    prevApplied := 0
    calDefault := calDefault
    drive := .off }

/-- A change of range (R14). `run`: the owner's session is RUN. -/
def Chan.changeRange (k : ChanConfig) (calDefault run bankOk : Bool) (r : Chan) : Chan :=
  if k.range ≠ .off ∧ bankOk then (r.rangeCleared k calDefault).enter run true else r.rangeCleared k calDefault

/-- An accepted CONFIGURE (R12, R14, R15). -/
def State.configure (s : State) (p : Port) (c : Channel) (k : ChanConfig) : State :=
  s.modChan c fun r =>
    if k.range = r.config.range then { r with config := k }
    else r.changeRange k (s.defaultFlag c k.range) (s.running p) (s.bankOk c)

/-- The refusal of checks 2 to 4 of R11, if one fails. -/
def State.configureCheck (s : State) (p : Port) (c : Channel) : Option Result :=
  if !(s.chan c).ownedBy p then some .notOwner
  else if s.running p && (s.chan c).ranged then some .notIdle
  else if s.calNames c then some .calBusy
  else none

/-- CONFIGURE (R11, R12). -/
def configureRequest (p : Port) (a : ConfigureOperands) (s : State) : State × Option Reply :=
  match channelOf a.channel with
  | none => (s, some (plain .badArg))
  | some c =>
    match s.configureCheck p c with
    | some r => (s, some (plain r))
    | none =>
      match a.record with
      | none => (s, some (plain .badArg))
      | some k => (s.configure p c k, some ⟨.ok, false, .configured c⟩)

def execConfigure (p : Port) (f : Frame) (s : State) : Host.Outcome State Fault Refusal :=
  .next (s.receive p kindConfigure [] f .gated .empty configureOperands (configureRequest p))

/-! ## READ -/

/-- The status record of a channel (R17). -/
def State.statusRecord (s : State) (c : Channel) : StatusRecord :=
  let r := s.chan c
  { channel := c, range := r.config.range, own := r.own, drive := r.drive, target := r.target, applied := r.applied
    readback := r.readback, fieldOk := s.bankOk c, openLoad := r.openLoad, deviation := r.deviation
    calDefault := r.calDefault, reservedByHead := s.reservedByHead c }

/-- The channels named, if every number is 0 to 15. -/
def namedChannels : List Byte → Option (List Channel)
  | [] => some []
  | b :: bs =>
    match channelOf b, namedChannels bs with
    | some c, some l => some (c :: l)
    | _, _ => none

/-- READ (R17 to R19). -/
def readRequest (a : List Byte) (s : State) : State × Option Reply :=
  if a.length = 0 ∨ 3 < a.length then (s, some (plain .badArg))
  else
    match namedChannels a with
    | none => (s, some (plain .badArg))
    | some l => (s, some ⟨.ok, false, .channels (l.map s.statusRecord)⟩)

def execRead (p : Port) (f : Frame) (s : State) : Host.Outcome State Fault Refusal :=
  .next (s.receive p kindRead [] f .exempt .empty readOperands readRequest)

end Sys2Proof.Machine
end

