-- ==== Sys2Proof/Machine/Claims.lean ====
section
/-! DEFINITION. CLAIM, CANCEL and RELEASE. -/

namespace Sys2Proof.Machine

/-! ## CLAIM -/

/-- The channel is owned by the session or lies in one of its pending claims (R31, check 2). -/
def State.overlaps (s : State) (p : Port) (set : ChanSet) : Bool :=
  (allChannels.any fun c => inSet set c && (s.chan c).ownedBy p)
    || (s.claimsOf p).any fun k => decide (k.set &&& set ≠ 0)

/-- The refusal of the checks of R31, if one fails. -/
def State.claimCheck (s : State) (p : Port) (a : ClaimOperands) : Option Result :=
  if a.tag = 0 ∨ a.set = 0 ∨ 3 < a.flags.toNat then some .badArg
  else if s.overlaps p a.set then some .ownOverlap
  else if (s.claimsOf p).any fun k => decide (k.tag = a.tag) then some .dupTag
  else none

/-- WAIT, bit 0 of the flags (R174). -/
def ClaimOperands.wait (a : ClaimOperands) : Bool := a.flags.getLsbD 0

/-- PREEMPT, bit 1 of the flags (R174). -/
def ClaimOperands.preempt (a : ClaimOperands) : Bool := a.flags.getLsbD 1

/-- The record that the claim takes (R35). -/
def State.newClaim (s : State) (p : Port) (a : ClaimOperands) : Claim :=
  { tag := a.tag, port := p, epoch := (s.session p).epoch, priority := (s.session p).priority, set := a.set
    wait := if a.waitLimit = 0 then none else some a.waitLimit.toNat, arrival := s.arrivals }

/-- The claim joins the list and a grant pass follows (R35). -/
def State.queueClaim (s : State) (p : Port) (a : ClaimOperands) : State :=
  State.grantPass
    { s with claims := insertClaim (s.newClaim p a) s.claims, arrivals := s.arrivals + 1 }

/-- Position in the list, from 1, of the claim of the port with the tag (R35). -/
def State.position (s : State) (p : Port) (tag : Byte) : Nat :=
  s.claims.findIdx (fun k => decide (k.port = p) && decide (k.tag = tag)) + 1

/-- The reply of a CLAIM: every result carries the tag (R36). -/
def claimReply (a : ClaimOperands) (r : Result) (revoked : ChanSet) (position : Nat) : Reply :=
  ⟨r, false, .claim a.tag revoked position⟩

/-- A CLAIM that has passed the checks (R32). -/
def State.decideClaim (s : State) (p : Port) (a : ClaimOperands) : State × Reply :=
  let priority := (s.session p).priority
  let ahead := s.aheadOfHead priority
  if s.grantable ahead a.set then ((s.grant p a.set).grantPass, claimReply a .granted 0 0)
  else if a.preempt && s.preempts ahead priority a.set then
    (((s.revoke p a.set).grant p a.set).grantPass, claimReply a .granted (chanSetOf (s.ownedIn a.set)) 0)
  else if a.wait then
    if s.claims.length < Config.poolSize ∧ (s.claimsOf p).length < Config.sessionClaims then
      (s.queueClaim p a, claimReply a .queued 0 ((s.queueClaim p a).position p a.tag))
    else (s, claimReply a .claimFull 0 0)
  else (s, claimReply a .busy 0 0)

/-- CLAIM (R31, R32, R36). -/
def claimRequest (p : Port) (a : ClaimOperands) (s : State) : State × Option Reply :=
  match s.claimCheck p a with
  | some r => (s, some (claimReply a r 0 0))
  | none => ((s.decideClaim p a).1, some (s.decideClaim p a).2)

/-- The tag of a CLAIM frame, its first payload byte: gate refusals carry it too (R36, R175). -/
def claimTag (f : Frame) : Byte := f.payload.headD 0

def execClaim (p : Port) (f : Frame) (s : State) : Host.Outcome State Fault Refusal :=
  .next (s.receive p kindClaim [] f .gated (.claim (claimTag f) 0 0) claimOperands (claimRequest p))

/-! ## CANCEL -/

/-- The pending claim of the session with the tag leaves the list, and a grant pass follows (R40). -/
def State.cancelClaim (s : State) (p : Port) (tag : Byte) : State :=
  State.grantPass { s with claims := s.claims.filter fun k => !(s.ownsClaim p k && decide (k.tag = tag)) }

/-- CANCEL (R40). -/
def cancelRequest (p : Port) (tag : Byte) (s : State) : State × Option Reply :=
  if tag = 0 then (s, some (plain .badArg))
  else if (s.claimsOf p).any fun k => decide (k.tag = tag) then (s.cancelClaim p tag, some (plain .ok))
  else (s, some (plain .notFound))

def execCancel (p : Port) (f : Frame) (s : State) : Host.Outcome State Fault Refusal :=
  .next (s.receive p kindCancel [] f .gated .empty oneByte (cancelRequest p))

/-! ## RELEASE -/

/-- Every channel of the set is OWNED by the port. -/
def State.ownsAll (s : State) (p : Port) (set : ChanSet) : Bool :=
  allChannels.all fun c => !inSet set c || (s.chan c).ownedBy p

/-- Every channel of the set is freed with its release action (R43). -/
def State.freeSet (s : State) (set : ChanSet) : State :=
  s.mapChans fun c r => if inSet set c then r.release (s.bankOk c) r.config.releaseAction else r

/-- RELEASE (R42, R43). -/
def releaseRequest (p : Port) (set : ChanSet) (s : State) : State × Option Reply :=
  if set = 0 then (s, some (plain .badArg))
  else if !s.ownsAll p set then (s, some (plain .notOwner))
  else if allChannels.any fun c => inSet set c && s.calNames c then (s, some (plain .calBusy))
  else ((s.freeSet set).grantPass, some (plain .ok))

def execRelease (p : Port) (f : Frame) (s : State) : Host.Outcome State Fault Refusal :=
  .next (s.receive p kindRelease [] f .gated .empty releaseOperands (releaseRequest p))

end Sys2Proof.Machine
end

