-- ==== Sys2Proof/Machine/TimebaseRequests.lean ====
section
/-! DEFINITION. TIMEBASE, STATUS and NOTES, and the maintenance hold. -/

namespace Sys2Proof.Machine

/-! ## TIMEBASE -/

/-- TIMEBASE READ (R158). -/
def timebaseReadRequest (_ : Unit) (s : State) : State × Option Reply :=
  (s, some ⟨.ok, false, .timebase s.timebase.period s.timebase.multiple s.timebase.unitCounter s.timebase.hold s.locked⟩)

def execTimebaseRead (p : Port) (f : Frame) (s : State) : Host.Outcome State Fault Refusal :=
  .next (s.receive p kindTimebase [variantRead] f .exempt .empty noOperands timebaseReadRequest)

/-- The parameters change and the tick count starts afresh (R160). -/
def State.setTimebase (s : State) (period : Period) (multiple : Multiple) : State :=
  { s with timebase := { s.timebase with period := period, multiple := multiple, tickCount := 0 } }

/-- TIMEBASE WRITE (R159, R160). A tick taken before an accepted WRITE is taken in full, with its timer-unit event, so
nothing of it outlives the WRITE (R61, R160; notes/assumptions/2.md). -/
def timebaseWriteRequest (a : Byte × Byte) (s : State) : State × Option Reply :=
  match periodOf a.1, multipleOf a.2 with
  | some period, some multiple =>
    if s.locked then (s, some (plain .locked))
    else (s.settled.setTimebase period multiple, some ⟨.ok, false, .timebaseSet period multiple⟩)
  | _, _ => (s, some (plain .badArg))

def execTimebaseWrite (p : Port) (f : Frame) (s : State) : Host.Outcome State Fault Refusal :=
  .next (s.receive p kindTimebase [variantWrite] f .exempt .empty timebaseOperands timebaseWriteRequest)

/-- A variant that is neither READ nor WRITE (R159, check 1). -/
def timebaseUnknownRequest (_ : Unit) (s : State) : State × Option Reply := (s, some (plain .badArg))

def execTimebaseUnknownVariant (p : Port) (f : Frame) (s : State) : Host.Outcome State Fault Refusal :=
  .next (s.receive p kindTimebase [] f .exempt .empty anyOperands timebaseUnknownRequest)

/-! ## STATUS -/

/-- The fields of a STATUS response on the port (R172). -/
def State.statusFields (s : State) (p : Port) : StatusFields :=
  { session := s.session p, pendingClaims := (s.claimsOf p).length, queueCount := (s.queue p).length
    crcErrors := (s.port p).crcErrors, frameErrors := (s.port p).frameErrors, overruns := (s.port p).overruns
    hold := s.timebase.hold, banks := s.banks.map BankState.field, listLength := s.claims.length
    contextInUse := s.cal.isSome }

/-- STATUS (R172). -/
def statusRequest (p : Port) (_ : Unit) (s : State) : State × Option Reply :=
  (s, some ⟨.ok, false, .status (s.statusFields p)⟩)

def execStatus (p : Port) (f : Frame) (s : State) : Host.Outcome State Fault Refusal :=
  .next (s.receive p kindStatus [] f .exempt .empty noOperands (statusRequest p))

/-! ## NOTES -/

/-- NOTES (R134). -/
def notesRequest (p : Port) (b : Byte) (s : State) : State × Option Reply :=
  if b.toNat = 0 ∨ 4 < b.toNat then (s, some (plain .badArg))
  else
    (s.modQueue p fun q => q.drop b.toNat, some ⟨.ok, false, .notes ((s.queue p).take b.toNat)⟩)

def execNotes (p : Port) (f : Frame) (s : State) : Host.Outcome State Fault Refusal :=
  .next (s.receive p kindNotes [] f .keeping .empty oneByte (notesRequest p))

/-! ## Maintenance hold -/

/-- The hold state follows an edge of MHOLD, with a record to every open session (R161). -/
def State.setHold (s : State) (h : HoldState) (b : NoteBody) : State :=
  State.notifyOpen { s with timebase := { s.timebase with hold := h } } b

/-- A rising edge of MHOLD (R161). -/
def execHoldAssertion (s : State) : Host.Outcome State Fault Refusal :=
  if !s.resetAsserted ∧ s.timebase.hold = .released then .next (s.settled.setHold .asserted .holdOn) else .next s

/-- A falling edge of MHOLD (R161). -/
def execHoldRelease (s : State) : Host.Outcome State Fault Refusal :=
  if !s.resetAsserted ∧ s.timebase.hold = .asserted then .next (s.settled.setHold .released .holdOff) else .next s

end Sys2Proof.Machine
end

