-- ==== Sys2Proof/Machine/Dispatch.lean ====
section
/-! DEFINITION. The meaning of every command, one arm a row of the opcode table. -/

namespace Sys2Proof.Machine

def exec (i : Instr) (s : State) : Host.Outcome State Fault Refusal :=
  match i with
  | .reset slotComplete => Sys2Proof.Machine.execReset slotComplete s
  | .resetEnd straps mhold => Sys2Proof.Machine.execResetEnd straps mhold s
  | .startUpLoadCompletion => Sys2Proof.Machine.execStartUpLoadCompletion s
  | .openSession p f => Sys2Proof.Machine.execOpenSession p f s
  | .closeSession p f => Sys2Proof.Machine.execCloseSession p f s
  | .refresh p f => Sys2Proof.Machine.execRefresh p f s
  | .mode p f => Sys2Proof.Machine.execMode p f s
  | .claim p f => Sys2Proof.Machine.execClaim p f s
  | .cancel p f => Sys2Proof.Machine.execCancel p f s
  | .release p f => Sys2Proof.Machine.execRelease p f s
  | .write p f => Sys2Proof.Machine.execWrite p f s
  | .configure p f => Sys2Proof.Machine.execConfigure p f s
  | .read p f => Sys2Proof.Machine.execRead p f s
  | .notes p f => Sys2Proof.Machine.execNotes p f s
  | .calBegin p f => Sys2Proof.Machine.execCalBegin p f s
  | .calDrive p f => Sys2Proof.Machine.execCalDrive p f s
  | .calMeasure p f => Sys2Proof.Machine.execCalMeasure p f s
  | .calCompute p f => Sys2Proof.Machine.execCalCompute p f s
  | .calDefault p f => Sys2Proof.Machine.execCalDefault p f s
  | .calCommit p f => Sys2Proof.Machine.execCalCommit p f s
  | .calAbort p f => Sys2Proof.Machine.execCalAbort p f s
  | .calUnknownStep p f => Sys2Proof.Machine.execCalUnknownStep p f s
  | .timebaseRead p f => Sys2Proof.Machine.execTimebaseRead p f s
  | .timebaseWrite p f => Sys2Proof.Machine.execTimebaseWrite p f s
  | .timebaseUnknownVariant p f => Sys2Proof.Machine.execTimebaseUnknownVariant p f s
  | .status p f => Sys2Proof.Machine.execStatus p f s
  | .unknownKindFrame p kind f => Sys2Proof.Machine.execUnknownKindFrame p kind f s
  | .frameError p received => Sys2Proof.Machine.execFrameError p received s
  | .fetch p => Sys2Proof.Machine.execFetch p s
  | .responseClockedOut p => Sys2Proof.Machine.execResponseClockedOut p s
  | .updateTick fieldSense loopSense order => Sys2Proof.Machine.execUpdateTick fieldSense loopSense order s
  | .timerUnitEvent => Sys2Proof.Machine.execTimerUnitEvent s
  | .lapse => Sys2Proof.Machine.execLapse s
  | .claimWaitExpiry => Sys2Proof.Machine.execClaimWaitExpiry s
  | .handoverTimerExpiry c => Sys2Proof.Machine.execHandoverTimerExpiry c s
  | .fieldLoss b => Sys2Proof.Machine.execFieldLoss b s
  | .fieldRestore b => Sys2Proof.Machine.execFieldRestore b s
  | .openLoadFlagChange c => Sys2Proof.Machine.execOpenLoadFlagChange c s
  | .deviationFlagChange c => Sys2Proof.Machine.execDeviationFlagChange c s
  | .holdAssertion => Sys2Proof.Machine.execHoldAssertion s
  | .holdRelease => Sys2Proof.Machine.execHoldRelease s
  | .commitCompletion verified => Sys2Proof.Machine.execCommitCompletion verified s
  | .crcErrorFrame p kind f => Sys2Proof.Machine.execCrcErrorFrame p kind f s

end Sys2Proof.Machine
end

