-- ==== Sys2Proof/WellFormed.lean ====
section
/-! DEFINITION. Which commands are well formed: the operands spell an event of their row. -/

namespace Sys2Proof

open Sys2Proof.Machine

/-- A frame whose payload, with `lead` bytes that the row fixes, has a length that byte 4 can hold (R165). -/
def Frame.fits (lead : Nat) (f : Frame) : Bool := decide (lead + f.payload.length ≤ 255)

/-- The first payload byte, if there is one, is none of the listed codes. -/
def Frame.headNotIn (codes : List Byte) (f : Frame) : Bool :=
  match f.payload with
  | [] => true
  | b :: _ => !codes.contains b

/-- The CRC of a request command's frame is good; true of every command that carries no frame. -/
def Instr.crcIntact : Instr → Bool
  | .openSession _ f => crcGood kindOpen f
  | .closeSession _ f => crcGood kindClose f
  | .refresh _ f => crcGood kindRefresh f
  | .mode _ f => crcGood kindMode f
  | .claim _ f => crcGood kindClaim f
  | .cancel _ f => crcGood kindCancel f
  | .release _ f => crcGood kindRelease f
  | .write _ f => crcGood kindWrite f
  | .configure _ f => crcGood kindConfigure f
  | .read _ f => crcGood kindRead f
  | .notes _ f => crcGood kindNotes f
  | .calBegin _ f => crcGood kindCal (withLead [stepBegin] f)
  | .calDrive _ f => crcGood kindCal (withLead [stepDrive] f)
  | .calMeasure _ f => crcGood kindCal (withLead [stepMeasure] f)
  | .calCompute _ f => crcGood kindCal (withLead [stepCompute] f)
  | .calDefault _ f => crcGood kindCal (withLead [stepDefault] f)
  | .calCommit _ f => crcGood kindCal (withLead [stepCommit] f)
  | .calAbort _ f => crcGood kindCal (withLead [stepAbort] f)
  | .calUnknownStep _ f => crcGood kindCal f
  | .timebaseRead _ f => crcGood kindTimebase (withLead [variantRead] f)
  | .timebaseWrite _ f => crcGood kindTimebase (withLead [variantWrite] f)
  | .timebaseUnknownVariant _ f => crcGood kindTimebase f
  | .status _ f => crcGood kindStatus f
  | .unknownKindFrame _ kind f => crcGood kind f
  | .crcErrorFrame _ _ _ | .frameError _ _ | .fetch _ | .reset _ | .resetEnd _ _ | .startUpLoadCompletion
  | .responseClockedOut _ | .updateTick _ _ _ | .timerUnitEvent | .lapse | .claimWaitExpiry | .handoverTimerExpiry _
  | .fieldLoss _ | .fieldRestore _ | .openLoadFlagChange _ | .deviationFlagChange _ | .holdAssertion | .holdRelease
  | .commitCompletion _ => true

/-- The command spells an event of its row. -/
def Instr.wellFormed : Instr → Bool
  | .openSession _ f | .closeSession _ f | .refresh _ f | .mode _ f | .claim _ f | .cancel _ f | .release _ f
  | .write _ f | .configure _ f | .read _ f | .notes _ f | .status _ f => f.fits 0
  | .calBegin _ f | .calDrive _ f | .calMeasure _ f | .calCompute _ f | .calDefault _ f | .calCommit _ f
  | .calAbort _ f | .timebaseRead _ f | .timebaseWrite _ f => f.fits 1
  | .calUnknownStep _ f => f.fits 0 && f.headNotIn calSteps
  | .timebaseUnknownVariant _ f => f.fits 0 && f.headNotIn timebaseVariants
  | .unknownKindFrame _ kind f => f.fits 0 && decide (kind ≠ fetchCode) && !namedKinds.contains kind
  | .crcErrorFrame _ kind f => f.fits 0 && decide (kind ≠ fetchCode) && !crcGood kind f
  | .frameError _ received => frameCutShort received
  | .fetch _ | .reset _ | .resetEnd _ _ | .startUpLoadCompletion | .responseClockedOut _ | .updateTick _ _ _
  | .timerUnitEvent | .lapse | .claimWaitExpiry | .handoverTimerExpiry _ | .fieldLoss _ | .fieldRestore _
  | .openLoadFlagChange _ | .deviationFlagChange _ | .holdAssertion | .holdRelease | .commitCompletion _ => true

end Sys2Proof
end

