-- ==== Sys2Proof/Safety.lean ====
section
/-! DEFINITION. The terms the claims are written in: what stayed as it was, when a frame is taken and answered, and the agreements the spec states of every state between events. -/

namespace Sys2Proof.Machine

/-! ## What stayed as it was -/

/-- The parts of the state. -/
inductive Part where
  | chans | claims | arrivals | sessions | epochCounter | ceilings | banks | cal | store | timebase | queues | ports
  | starting | resetAsserted | stepDue | waitsDue | leasesDue | renewed | pending
  deriving DecidableEq, Repr

/-- The part is the same in both states. -/
def Part.Same (s t : State) : Part → Prop
  | .chans => t.chans = s.chans
  | .claims => t.claims = s.claims
  | .arrivals => t.arrivals = s.arrivals
  | .sessions => t.sessions = s.sessions
  | .epochCounter => t.epochCounter = s.epochCounter
  | .ceilings => t.ceilings = s.ceilings
  | .banks => t.banks = s.banks
  | .cal => t.cal = s.cal
  | .store => t.store = s.store
  | .timebase => t.timebase = s.timebase
  | .queues => t.queues = s.queues
  | .ports => t.ports = s.ports
  | .starting => t.starting = s.starting
  | .resetAsserted => t.resetAsserted = s.resetAsserted
  | .stepDue => t.stepDue = s.stepDue
  | .waitsDue => t.waitsDue = s.waitsDue
  | .leasesDue => t.leasesDue = s.leasesDue
  | .renewed => t.renewed = s.renewed
  | .pending => t.pending = s.pending

/-- Every part but those listed is the same in both states. -/
def SameBut (changed : List Part) (s t : State) : Prop := ∀ x : Part, x ∉ changed → x.Same s t

/-! ## Request frames -/

/-- What a request command puts on its port. -/
structure Request where
  port : Port
  kind : Byte
  lead : List Byte
  frame : Frame
  gate : GateClass
  deriving DecidableEq, Repr

/-- The request that a command is (R56, R174). -/
def requestOf : Instr → Option Request
  | .openSession p f => some ⟨p, kindOpen, [], f, .exempt⟩
  | .closeSession p f => some ⟨p, kindClose, [], f, .keeping⟩
  | .refresh p f => some ⟨p, kindRefresh, [], f, .gated⟩
  | .mode p f => some ⟨p, kindMode, [], f, .gated⟩
  | .claim p f => some ⟨p, kindClaim, [], f, .gated⟩
  | .cancel p f => some ⟨p, kindCancel, [], f, .gated⟩
  | .release p f => some ⟨p, kindRelease, [], f, .gated⟩
  | .write p f => some ⟨p, kindWrite, [], f, .gated⟩
  | .configure p f => some ⟨p, kindConfigure, [], f, .gated⟩
  | .read p f => some ⟨p, kindRead, [], f, .exempt⟩
  | .notes p f => some ⟨p, kindNotes, [], f, .keeping⟩
  | .calBegin p f => some ⟨p, kindCal, [stepBegin], f, .gated⟩
  | .calDrive p f => some ⟨p, kindCal, [stepDrive], f, .gated⟩
  | .calMeasure p f => some ⟨p, kindCal, [stepMeasure], f, .gated⟩
  | .calCompute p f => some ⟨p, kindCal, [stepCompute], f, .gated⟩
  | .calDefault p f => some ⟨p, kindCal, [stepDefault], f, .gated⟩
  | .calCommit p f => some ⟨p, kindCal, [stepCommit], f, .gated⟩
  | .calAbort p f => some ⟨p, kindCal, [stepAbort], f, .gated⟩
  | .calUnknownStep p f => some ⟨p, kindCal, [], f, .gated⟩
  | .timebaseRead p f => some ⟨p, kindTimebase, [variantRead], f, .exempt⟩
  | .timebaseWrite p f => some ⟨p, kindTimebase, [variantWrite], f, .exempt⟩
  | .timebaseUnknownVariant p f => some ⟨p, kindTimebase, [], f, .exempt⟩
  | .status p f => some ⟨p, kindStatus, [], f, .exempt⟩
  | .unknownKindFrame p kind f => some ⟨p, kind, [], f, .exempt⟩
  | .reset _ | .resetEnd _ _ | .startUpLoadCompletion | .frameError _ _ | .fetch _ | .responseClockedOut _
  | .updateTick _ _ _ | .timerUnitEvent | .lapse | .claimWaitExpiry | .handoverTimerExpiry _ | .fieldLoss _
  | .fieldRestore _ | .openLoadFlagChange _ | .deviationFlagChange _ | .holdAssertion | .holdRelease
  | .commitCompletion _ | .crcErrorFrame _ _ _ => none

/-- The payload of a request frame on the line, the bytes its row fixes included. -/
def Request.payload (r : Request) : List Byte := r.lead ++ r.frame.payload

/-- The length field L has the value that the layout of the kind requires (R174), and does not exceed 40 (R167). -/
def layoutFits (kind : Byte) (payload : List Byte) : Bool :=
  let n := payload.length
  let first := (payload.headD 0).toNat
  decide (n ≤ 40) &&
    (if kind ∈ [kindClose, kindRefresh, kindStatus] then n == 0
    else if kind ∈ [kindMode, kindCancel, kindNotes] then n == 1
    else if kind ∈ [kindOpen, kindRelease] then n == 2
    else if kind = kindClaim then n == 5
    else if kind = kindWrite then n != 0 && n == 1 + 3 * first
    else if kind = kindConfigure then n == 18
    else if kind = kindRead then n != 0 && n == 1 + first
    else if kind = kindCal then
      n != 0 &&
        (if first ∈ [1, 2] then n == 2
        else if first = 3 then n == 4
        else if first ∈ [4, 5, 6, 7] then n == 1
        else true)
    else if kind = kindTimebase then n != 0 && (if first = 0 then n == 1 else if first = 1 then n == 3 else true)
    else false)

/-- The frame passes its CRC and meets a READY port with no flag change due (R165, R166). -/
def State.ready (s : State) (p : Port) (kind : Byte) (lead : List Byte) (f : Frame) : Bool :=
  !s.flagsDue && crcGood kind (withLead lead f) && decide ((s.port p).transport = .ready)

/-- The frame is taken and is neither answered STARTING nor a repetition of the last executed request (R167, R168). -/
def State.takes (s : State) (p : Port) (kind : Byte) (lead : List Byte) (f : Frame) : Bool :=
  s.ready p kind lead f && !s.starting && ((s.port p).replayOf kind f.seq).isNone

/-- The session of the port is IDLE or RUN and its epoch is the frame's (R56). -/
def State.admits (s : State) (p : Port) (f : Frame) : Bool :=
  s.sessionOpen p && decide (f.epoch = (s.session p).epoch)

/-- The port has placed the response and saved it; the other ports are as they were (R169). What of an earlier fetch the
port still holds is left open. -/
def Answered (s t : State) (p : Port) (kind : Byte) (f : Frame) (r : Reply) : Prop :=
  t.port p =
      { s.port p with
        transport := .answered (r.toResponse kind f.seq) false
        saved := some ⟨f.seq, kind, r.toResponse kind f.seq⟩
        sending := (t.port p).sending } ∧
    ∀ q, q ≠ p → t.port q = s.port q

/-- The port of a command's request has placed a response without executing it, the saved copy unchanged; the other
ports are as they were (R167, R168). What of an earlier fetch the port still holds is left open. -/
def Placed (s t : State) (p : Port) (r : Response) (replay : Bool) : Prop :=
  t.port p = { s.port p with transport := .answered r replay, sending := (t.port p).sending } ∧
    ∀ q, q ≠ p → t.port q = s.port q

/-- In every later state whose port still has the saved copy of `t`, a repetition is answered with the response that `t`
saved for frame `f` and the REPLAY flag, and nothing else changes (R168). -/
def RepetitionsReplayed (i : Frame → Instr) (t : State) (p : Port) (kind : Byte) (lead : List Byte) (f : Frame)
    (r : Reply) : Prop :=
  ∀ (g : Frame) (u : State), u.ready p kind lead g → u.starting = false → g.seq = f.seq →
    layoutFits kind (lead ++ g.payload) → (u.port p).saved = (t.port p).saved →
    ∃ v, exec (i g) u = .next v ∧ Placed u v p (r.toResponse kind f.seq) true ∧ SameBut [.ports] u v

/-- The command is answered, and nothing but the answer changes. -/
def OnlyAnswers (i : Instr) (s : State) (p : Port) (kind : Byte) (f : Frame) (r : Reply) : Prop :=
  ∃ t, exec i s = .next t ∧ Answered s t p kind f r ∧ SameBut [.ports] s t

/-! ## Records handed to queues -/

/-- The queue after the records joined it one after another (R128). -/
def joined (l : List Note) (q : List Note) : List Note := l.foldl (fun q n => appendNote n q) q

/-- The records of the list for port `p`, in their order, with the timestamp of the state (R131). -/
def State.notesFor (s : State) (l : List (Port × NoteBody)) (p : Port) : List Note :=
  (l.filter fun x => decide (x.1 = p)).map fun x => s.note x.2

/-- The records were handed over in order: a queue whose session is IDLE or RUN took those for it, and the others are as
they were (R128, R129). -/
def Handed (s t : State) (l : List (Port × NoteBody)) : Prop :=
  ∀ p, t.queue p = if s.sessionOpen p then joined (s.notesFor l p) (s.queue p) else s.queue p

/-- `u` is `s` with every flag change that is due taken: each changes its flag and returns its count to 0, and the records go
to the owners, in ascending channel number and OPEN_LOAD before DEVIATION (R113 step 4, R122, R124). -/
def FlagsTaken (s u : State) : Prop :=
  (∀ c,
    let r := s.chan c
    let loads := 4 ≤ r.openLoadCount
    let deviates := 3 ≤ r.deviationCount
    u.chan c =
      { r with
        openLoad := if loads then !r.openLoad else r.openLoad
        openLoadCount := if loads then 0 else r.openLoadCount
        deviation := if deviates then !r.deviation else r.deviation
        deviationCount := if deviates then 0 else r.deviationCount }) ∧
    Handed s u
      (allChannels.flatMap fun c =>
        (if 4 ≤ (s.chan c).openLoadCount then (s.chan c).toOwner (.openLoad c !(s.chan c).openLoad) else []) ++
          if 3 ≤ (s.chan c).deviationCount then (s.chan c).toOwner (.deviation c !(s.chan c).deviation) else []) ∧
    SameBut [.chans, .queues] s u

/-! ## Operands on the line -/

/-- The entries of a WRITE as bytes (R174). -/
def writePayload (l : List (Channel × Int)) : List Byte :=
  natByte l.length :: l.flatMap fun x => channelByte x.1 :: signedBytes x.2

/-- Code of an action (R173). -/
def Action.byte : Action → Byte
  | .hold => 0
  | .zero => 1
  | .safe => 2

/-- Code of a handover mode (R173). -/
def HandoverMode.byte : HandoverMode → Byte
  | .step => 0
  | .matching => 1
  | .ramp => 2

/-- Code of a calibration point (R173). -/
def CalPoint.byte : CalPoint → Byte
  | .low => 0
  | .high => 1

/-- A CONFIGURE payload (R174). -/
def configurePayload (c : Channel) (k : ChanConfig) : List Byte :=
  [channelByte c, k.range.byte, boolByte k.preemptible, k.handover.byte]
    ++ halfBytes (BitVec.ofNat 16 k.matchWindow) ++ halfBytes (BitVec.ofNat 16 k.slewLimit)
    ++ halfBytes (BitVec.ofNat 16 k.rampStep)
    ++ [natByte k.timeout, k.idleAction.byte, k.lapseAction.byte, k.releaseAction.byte]
    ++ signedBytes k.safe ++ halfBytes (BitVec.ofNat 16 k.deviationLimit)

/-- A CLAIM payload (R174). -/
def claimPayload (tag : Byte) (set : ChanSet) (flags limit : Byte) : List Byte :=
  tag :: (halfBytes set ++ [flags, limit])

/-! ## Claims -/

/-- The checks of R31 pass. -/
structure State.ClaimPasses (s : State) (p : Port) (tag : Byte) (set : ChanSet) (flags : Byte) : Prop where
  tagged : tag ≠ 0
  named : set ≠ 0
  coded : flags.toNat ≤ 3
  notOwned : ∀ c, inSet set c → (s.chan c).own ≠ .owned p
  disjoint : ∀ k ∈ s.claims, s.ownsClaim p k → ∀ c, inSet set c → inSet k.set c = false
  fresh : ∀ k ∈ s.claims, s.ownsClaim p k → k.tag ≠ tag

/-- A claim of the session of the port would stand ahead of the head (R32, R39). -/
def State.LeadsList (s : State) (p : Port) : Prop := ∀ k, s.claims.head? = some k → k.priority < (s.session p).priority

/-- A claim of the session of the port for the set is grantable at its position (R25, R32 case 1). -/
def State.GrantableAt (s : State) (p : Port) (set : ChanSet) : Prop :=
  ∀ c, inSet set c → (s.chan c).own = .free ∨ ((s.chan c).own = .reserved ∧ s.LeadsList p)

/-- The preemption test passes (R33). -/
def State.PreemptionPasses (s : State) (p : Port) (set : ChanSet) : Prop :=
  ∀ c, inSet set c →
    match (s.chan c).own with
    | .free => True
    | .reserved => s.LeadsList p
    | .owned q =>
      (s.session q).priority < (s.session p).priority ∧ (s.chan c).config.preemptible ∧ s.calNames c = false

/-- The claim record that a waiting CLAIM takes (R35). -/
def State.waitingClaim (s : State) (p : Port) (tag : Byte) (set : ChanSet) (limit : Byte) : Claim :=
  { tag := tag, port := p, epoch := (s.session p).epoch, priority := (s.session p).priority, set := set
    wait := if limit = 0 then none else some limit.toNat, arrival := s.arrivals }

/-! ## Agreements between events -/

/-- No queue holds more than 16 records, and the tail of one that holds 16 is an OVERFLOW record (R127, R128). -/
def State.QueuesBounded (s : State) : Prop :=
  ∀ p, (s.queue p).length ≤ 16 ∧ ((s.queue p).length = 16 → (overflowTail (s.queue p)).isSome)

/-- Claim `a` stands ahead of claim `b`: higher priority, or the same and earlier (R23). -/
def Claim.Ahead (a b : Claim) : Prop := b.priority < a.priority ∨ (a.priority = b.priority ∧ a.arrival < b.arrival)

/-- At most eight claims, in order of priority and then of arrival (R22, R23). -/
def State.ListOrdered (s : State) : Prop :=
  s.claims.length ≤ 8 ∧ s.claims.Pairwise Claim.Ahead ∧ ∀ k ∈ s.claims, k.arrival < s.arrivals

/-- Every owner, and the session of every pending claim, is IDLE or RUN (R7, R22). -/
def State.OwnersOpen (s : State) : Prop :=
  (∀ c p, (s.chan c).own = .owned p → s.sessionOpen p) ∧
    ∀ k ∈ s.claims, s.sessionOpen k.port ∧ k.epoch = (s.session k.port).epoch

/-- The channel has no owner and lies in the set of the head of the pending list. -/
def State.wantedByHead (s : State) (c : Channel) : Bool := s.reservedByHead c && ((s.chan c).owner).isNone

/-- A channel is RESERVED exactly when it has no owner and lies in the set of the head (R7, R24). -/
def State.ReservedForHead (s : State) : Prop := ∀ c, (s.chan c).own = .reserved ↔ s.wantedByHead c

/-- A pending claim could be granted: no channel of its set has an owner, and none is RESERVED unless the claim is the
head (R25). -/
def State.GrantableClaim (s : State) (k : Claim) : Prop :=
  k ∈ s.claims ∧ ∀ c, inSet k.set c →
    (s.chan c).own = .free ∨ ((s.chan c).own = .reserved ∧ s.claims.head? = some k)

/-- The pending claims of one port: at most four, with tags of their own, of disjoint sets, none of which holds a channel
of the port (R21, R22, R26). -/
def State.ClaimsDisjoint (s : State) : Prop :=
  (∀ p, (s.claims.filter fun k => decide (k.port = p)).length ≤ 4) ∧
    (s.claims.Pairwise fun a b => a.port = b.port → a.tag ≠ b.tag ∧ ∀ c, inSet a.set c → inSet b.set c = false) ∧
    ∀ k ∈ s.claims, k.tag ≠ 0 ∧ k.set ≠ 0 ∧ ∀ c, inSet k.set c → (s.chan c).own ≠ .owned k.port

/-- Everything the spec says of the pending list and of ownership between events. -/
structure State.Arbitrated (s : State) : Prop where
  order : s.ListOrdered
  owners : s.OwnersOpen
  reserved : s.ReservedForHead
  disjoint : s.ClaimsDisjoint

/-- The fields of a channel agree with its drive state (R9, R73, R75, R76, R80, R81, R84). -/
def Chan.Agrees (r : Chan) : Prop :=
  match r.drive with
  | .off =>
    r.applied = 0 ∧ r.held = none ∧ r.timer = none ∧ (∀ x, r.forced = some x → x.value = none) ∧
      (r.config.range = .off → r.forced = none)
  | .forced =>
    ∃ a, r.forced = some ⟨a, some r.applied⟩ ∧ r.held = (if a = .hold then some r.applied else none) ∧ r.timer = none
  | .holding => r.held = some r.applied ∧ r.forced = none
  | .ramping => r.held = none ∧ r.forced = none ∧ r.timer = none ∧ r.target.isSome
  | .follow => r.held = none ∧ r.forced = none ∧ r.timer = none ∧ r.target.isSome
  | .calibrating => r.held = none ∧ r.forced = none ∧ r.timer = none

/-- A channel is OFF exactly when its range is OFF or its bank is LOST (R9, R75). -/
def State.OffAgrees (s : State) : Prop :=
  ∀ c, (s.chan c).drive = .off ↔ (s.chan c).config.range = .off ∨ s.bankOk c = false

/-- Which drive states the owner's session allows (R9, R53, R103). -/
def State.DriveByOwner (s : State) : Prop :=
  ∀ c,
    match (s.chan c).owner with
    | some p =>
      if s.running p then (s.chan c).drive ∈ [Drive.off, .holding, .ramping, .follow]
      else (s.chan c).drive ∈ [Drive.off, .forced, .calibrating]
    | none => (s.chan c).drive ∈ [Drive.off, .forced]

/-- A CALIBRATING channel is the one the context names (R139). -/
def State.CalibratingNamed (s : State) : Prop := ∀ c, (s.chan c).drive = .calibrating → s.calNames c

/-- The context's channel is owned by its port in its range, the port's session is IDLE with the context's epoch, outside
COMMITTING the channel is CALIBRATING, corrections are there in COMPUTED and COMMITTING alone, and the port is EXECUTING in
COMMITTING alone (R139, R148). -/
def State.ContextAgrees (s : State) : Prop :=
  ∀ x, s.cal = some x →
    (s.chan x.channel).own = .owned x.port ∧
      (s.chan x.channel).config.range = .driving x.range ∧
      (s.session x.port).state = .idle ∧
      (s.session x.port).epoch = x.epoch ∧
      (x.phase ≠ .committing → (s.chan x.channel).drive = .calibrating) ∧
      (x.computed.isSome ↔ x.phase = .computed ∨ x.phase = .committing) ∧
      (x.phase = .committing ↔ (s.port x.port).isExecuting)

/-- A port is EXECUTING for a context in COMMITTING that it holds, and for nothing else (R148, R164). -/
def State.ExecutingCommits (s : State) : Prop :=
  ∀ p, (s.port p).isExecuting → ∃ x, s.cal = some x ∧ x.port = p ∧ x.phase = .committing

/-- The lease counter of an open session stands between 1 and the lease period (R52, R66, R68). -/
def State.LeasesRunning (s : State) : Prop :=
  ∀ p, s.sessionOpen p → 1 ≤ (s.session p).counter ∧ (s.session p).counter ≤ (s.session p).lease

/-- A session is marked as renewed only while a timer-unit event waits for the session block (R69). -/
def State.RenewalsWait (s : State) : Prop := ∀ p : Port, s.renewed[p] → s.unitDue ∨ s.leasesDue

/-- Everything the spec says between events of the drive of the channels, the calibration context and what holds it. -/
structure State.Sound (s : State) : Prop where
  owners : s.OwnersOpen
  off : s.OffAgrees
  fields : ∀ c, (s.chan c).Agrees
  drive : s.DriveByOwner
  named : s.CalibratingNamed
  context : s.ContextAgrees
  executing : s.ExecutingCommits
  leases : s.LeasesRunning
  renewals : s.RenewalsWait

/-- The configuration record is within the bounds of R13, and every value of the channel lies within the limits of its
range (R3, R5, R73). -/
def Chan.WithinRange (r : Chan) : Prop :=
  r.config.inBounds ∧ r.config.range.admits r.applied ∧
    (∀ v, r.target = some v → r.config.range.admits v) ∧ ∀ v, r.held = some v → r.config.range.admits v

/-- Every channel value, and the start value of the context, lies within the limits of its range (R3, R73, R139). -/
def State.ValuesWithin (s : State) : Prop :=
  (∀ c, (s.chan c).WithinRange) ∧ ∀ x, s.cal = some x → (Range.driving x.range).admits x.start

end Sys2Proof.Machine
end

