-- ==== Sys2Proof/Certificates/Slice0/Obligations.lean ====
section
/-! DEFINITION. The statements for the provers. Each docstring names the rules of the spec that its proposition formalises, and what of it is the model's choice. -/

open Sys2Proof Sys2Proof.Machine

/-! ## Steps -/

/-- A step takes the command at the front of the queue and runs it on the state with the rest of the queue. That an
empty queue leaves the part idle is the model's choice (notes/assumptions/19.md). -/
def Obligations.StepTakesFront : Prop :=
  (∀ (i : Instr) (rest : List Instr) (s : State), s.pending = i :: rest → step s = exec i { s with pending := rest }) ∧
    ∀ s : State, s.pending = [] → step s = .next s

/-- Every command of every row answers a next state, and leaves the queue of commands to the step. No command of the
spec stops the part: a refusal is a result code (R176). That RESET too leaves the commands that wait in the queue is the
model's choice (notes/assumptions/19.md). -/
def Obligations.EveryCommandCompletes : Prop :=
  ∀ (i : Instr) (s : State), ∃ t, exec i s = .next t ∧ t.pending = s.pending

/-! ## RESET and the start-up load -/

/-- RESET: R2, R22, R52, R54, R73, R112, R127, R139, R155 but for the hold state, R164; the slots are nonvolatile (R147)
but for the one that a commit was writing, which is complete or invalid (R154): its check word agrees with its other
fields or does not, by a check that the spec does not give and that is a free value here (notes/assumptions/10.md). That
no frame is left of a fetch, and the other fields of an invalid slot, are the model's choice (notes/assumptions/15.md,
10.md). -/
def Obligations.ResetTakesResetValues : Prop :=
  ∀ (slotComplete : Bool) (s : State), ∃ t, exec (.reset slotComplete) s = .next t ∧
    (∀ c, t.chan c =
      { config :=
          { range := .off, preemptible := false, handover := .matching, matchWindow := 100, slewLimit := 0
            rampStep := 100, timeout := 16, idleAction := .hold, lapseAction := .safe, releaseAction := .hold
            safe := 0, deviationLimit := 300 }
        own := .free, target := none, drive := .off, applied := 0, held := none, forced := none, timer := none
        readback := 0, openLoad := false, openLoadCount := 0, deviation := false, deviationCount := 0
        prevApplied := 0, calDefault := false }) ∧
    t.claims = [] ∧ t.epochCounter = 0 ∧ t.cal = none ∧ t.starting = true ∧
    (∀ p, t.session p = { state := .closed, epoch := 0, priority := 0, lease := 0, counter := 0 }) ∧
    (∀ b, t.bank b = { field := .lost, count := 0 }) ∧
    t.timebase.period = .ms1 ∧ t.timebase.multiple = .m32 ∧ t.timebase.tickCount = 0 ∧ t.timebase.unitCounter = 0 ∧
    (∀ p, t.queue p = []) ∧
    (∀ p, t.port p =
      { transport := .ready, overrunPending := false, saved := none, crcErrors := 0, frameErrors := 0, overruns := 0
        sending := none }) ∧
    (∀ c d, (∀ x, s.cal = some x → x.phase = .committing → ¬(x.channel = c ∧ x.range = d)) →
      (t.cell c d).slots = (s.cell c d).slots) ∧
    ∀ x k, s.cal = some x → x.phase = .committing → x.computed = some k →
      let before := s.cell x.channel x.range
      let older : Fin 2 := if before.newer = some 0 then 1 else 0
      let generation := match before.newer with | some i => before.slots[i].generation + 1 | none => 1
      let agreeing := Config.checkWord x.channel x.range.place generation k.gain k.offset
      ∃ check, (slotComplete = true → check = agreeing) ∧ (slotComplete = false → check ≠ agreeing) ∧
        (t.cell x.channel x.range).slots =
          before.slots.set older
            { channel := x.channel, range := x.range, generation := generation, coeff := k, check := check }

/-- RESET_END: the ceilings from the straps (R55), the hold state from MHOLD (R162), STARTING set (R154).
START_UP_LOAD_COMPLETION: it ends STARTING and writes no slot (R154); the newer slot and the record in effect of each
channel-range by the table of R147, a slot being valid when it names its place and its check word agrees by a check that
is a free value here (notes/assumptions/10.md). -/
def Obligations.StartUpFollowsReset : Prop :=
  (∀ (straps : Vector (BitVec 2) 4) (mhold : Bool) (s : State), s.resetAsserted →
    ∃ t, exec (.resetEnd straps mhold) s = .next t ∧
      (∀ p : Port,
        (straps[p] = 0b00 → t.ceiling p = 1) ∧ (straps[p] = 0b01 → t.ceiling p = 3) ∧
          (straps[p] = 0b10 → t.ceiling p = 5) ∧ (straps[p] = 0b11 → t.ceiling p = 7)) ∧
      t.timebase = { s.timebase with hold := if mhold then .asserted else .released } ∧
      t.starting = true ∧ t.resetAsserted = false ∧
      SameBut [.ceilings, .timebase, .starting, .resetAsserted] s t) ∧
  ∀ s : State, s.flagsDue = false → s.starting → s.resetAsserted = false →
    ∃ t, exec .startUpLoadCompletion s = .next t ∧ t.starting = false ∧ SameBut [.store, .starting] s t ∧
      ∀ c d,
        let k := s.cell c d
        let good := fun i : Fin 2 =>
          k.slots[i].channel = c ∧ k.slots[i].range = d ∧
            k.slots[i].check =
              Config.checkWord c d.place k.slots[i].generation k.slots[i].coeff.gain k.slots[i].coeff.offset
        (t.cell c d).slots = k.slots ∧
          (good 0 → good 1 → k.slots[1].generation = k.slots[0].generation + 1 → (t.cell c d).newer = some 1) ∧
          (good 0 → good 1 → k.slots[1].generation ≠ k.slots[0].generation + 1 → (t.cell c d).newer = some 0) ∧
          (good 0 → ¬good 1 → (t.cell c d).newer = some 0) ∧
          (¬good 0 → good 1 → (t.cell c d).newer = some 1) ∧
          (¬good 0 → ¬good 1 → (t.cell c d).newer = none ∧ (t.cell c d).effect = ⟨0, 0⟩) ∧
          ∀ i, (t.cell c d).newer = some i → (t.cell c d).effect = k.slots[i].coeff

/-! ## Sessions -/

/-- OPEN accepted: R59 with the epoch of R54. The mark `renewed` is the model's own field (notes/assumptions/30.md). -/
def Obligations.OpenBeginsSession : Prop :=
  ∀ (p : Port) (f : Frame) (s : State) (priority lease : Byte), s.takes p kindOpen [] f →
    f.payload = [priority, lease] → s.sessionOpen p = false → priority.toNat ≤ 7 → lease ≠ 0 →
    ∃ t, exec (.openSession p f) s = .next t ∧
      t.epochCounter = (if s.epochCounter = 0xFFFF then 1 else s.epochCounter + 1) ∧
      t.session p =
        { state := .idle, epoch := t.epochCounter, priority := min priority.toNat (s.ceiling p), lease := lease.toNat
          counter := lease.toNat } ∧
      (∀ q, q ≠ p → t.session q = s.session q) ∧
      t.queue p = [] ∧ (∀ q, q ≠ p → t.queue q = s.queue q) ∧
      t.renewed[p] = false ∧ (∀ q : Port, q ≠ p → t.renewed[q] = s.renewed[q]) ∧
      Answered s t p kindOpen f ⟨.ok, false, .opened t.epochCounter (min priority.toNat (s.ceiling p))⟩ ∧
      SameBut [.sessions, .epochCounter, .queues, .renewed, .ports] s t

/-- CLOSE: of an open session, the withdrawal with the release action (R48), one grant pass, the queue cleared and the
context closed (R71); of a LAPSED session, the queue and the context alone (R72). -/
def Obligations.CloseEndsSession : Prop :=
  (∀ (p : Port) (f : Frame) (s : State), s.takes p kindClose [] f → f.payload = [] → s.admits p f → s.Sound →
    ∃ t u, exec (.closeSession p f) s = .next t ∧
      (∀ c, u.chan c =
        if (s.chan c).own = .owned p then (s.chan c).release (s.bankOk c) (s.chan c).config.releaseAction
        else s.chan c) ∧
      u.claims = (s.claims.filter fun k => decide (k.port ≠ p)) ∧
      u.cal = (s.cal.filter fun x => decide (x.port ≠ p)) ∧
      SameBut [.chans, .claims, .cal] s u ∧
      t.session p = { state := .closed, epoch := 0, priority := 0, lease := 0, counter := 0 } ∧
      (∀ q, q ≠ p → t.session q = s.session q) ∧
      t.queue p = [] ∧ (∀ q, q ≠ p → t.queue q = u.grantPass.queue q) ∧
      SameBut [.sessions, .queues, .ports] u.grantPass t ∧
      (∀ c, (t.chan c).own ≠ .owned p) ∧ (∀ k ∈ t.claims, k.port ≠ p) ∧
      Answered s t p kindClose f ⟨.ok, false, .empty⟩) ∧
  ∀ (p : Port) (f : Frame) (s : State), s.takes p kindClose [] f → f.payload = [] →
    (s.session p).state = .lapsed → f.epoch = (s.session p).epoch →
    ∃ t, exec (.closeSession p f) s = .next t ∧
      t.session p = { state := .closed, epoch := 0, priority := 0, lease := 0, counter := 0 } ∧
      (∀ q, q ≠ p → t.session q = s.session q) ∧
      t.queue p = [] ∧ (∀ q, q ≠ p → t.queue q = s.queue q) ∧
      Answered s t p kindClose f ⟨.ok, false, .empty⟩ ∧
      SameBut [.sessions, .queues, .ports] s t

/-- REFRESH: R66. Taken while a timer-unit event waits, it has no lapse of the session follow at that event: the counter
falls to the lease period less one (R67), but not below 1 (R69). That the event is a command that waits, and that a
renewed session is marked until then, is the model's choice (notes/assumptions/1.md, 30.md). -/
def Obligations.RefreshRenewsLease : Prop :=
  ∀ (p : Port) (f : Frame) (s : State), s.takes p kindRefresh [] f → f.payload = [] → s.admits p f →
    let ticks := match s.timebase.multiple with | .m8 => 8 | .m32 => 32 | .m128 => 128
    let counted := { s.session p with counter := max 1 ((s.session p).lease - 1) }
    ∃ t, exec (.refresh p f) s = .next t ∧
      (∀ q : Port, t.renewed[q] ↔ s.renewed[q] ∨ (q = p ∧ (ticks ≤ s.timebase.tickCount ∨ s.leasesDue))) ∧
      (1 ≤ (s.session p).lease → s.leasesDue → ∃ v, exec .lapse t = .next v ∧ v.session p = counted) ∧
      (1 ≤ (s.session p).lease → ticks ≤ s.timebase.tickCount →
        ∃ u v, exec .timerUnitEvent t = .next u ∧ exec .lapse u = .next v ∧ v.session p = counted) ∧
      t.session p = { s.session p with counter := (s.session p).lease } ∧
      (∀ q, q ≠ p → t.session q = s.session q) ∧
      Answered s t p kindRefresh f ⟨.ok, false, .empty⟩ ∧
      SameBut [.sessions, .renewed, .ports] s t

/-- MODE: RUN from IDLE enters the session's channels into handover (R63), IDLE from RUN forces them with their idle
actions (R64). -/
def Obligations.ModeMovesSession : Prop :=
  (∀ (p : Port) (f : Frame) (s : State), s.takes p kindMode [] f → f.payload = [1] → s.admits p f →
    (s.session p).state = .idle → s.holdsCal p = false →
    ∃ t, exec (.mode p f) s = .next t ∧
      t.session p = { s.session p with state := .run } ∧ (∀ q, q ≠ p → t.session q = s.session q) ∧
      (∀ c, t.chan c = if (s.chan c).own = .owned p then (s.chan c).handover (s.bankOk c) else s.chan c) ∧
      Answered s t p kindMode f ⟨.ok, false, .empty⟩ ∧ SameBut [.sessions, .chans, .ports] s t) ∧
  ∀ (p : Port) (f : Frame) (s : State), s.takes p kindMode [] f → f.payload = [0] → s.admits p f →
    (s.session p).state = .run →
    ∃ t, exec (.mode p f) s = .next t ∧
      t.session p = { s.session p with state := .idle } ∧ (∀ q, q ≠ p → t.session q = s.session q) ∧
      (∀ c, t.chan c =
        if (s.chan c).own = .owned p then (s.chan c).force (s.bankOk c) (s.chan c).config.idleAction else s.chan c) ∧
      Answered s t p kindMode f ⟨.ok, false, .empty⟩ ∧ SameBut [.sessions, .chans, .ports] s t

/-- The checks of OPEN (R59) and the cases of MODE that change nothing (R62), each in its order. -/
def Obligations.SessionRequestChecks : Prop :=
  (∀ (p : Port) (f : Frame) (s : State) (priority lease : Byte), s.takes p kindOpen [] f →
    f.payload = [priority, lease] →
    (s.sessionOpen p → OnlyAnswers (.openSession p f) s p kindOpen f ⟨.alreadyOpen, false, .empty⟩) ∧
      (s.sessionOpen p = false → 7 < priority.toNat ∨ lease = 0 →
        OnlyAnswers (.openSession p f) s p kindOpen f ⟨.badArg, false, .empty⟩)) ∧
  ∀ (p : Port) (f : Frame) (s : State) (value : Byte), s.takes p kindMode [] f → f.payload = [value] → s.admits p f →
    (1 < value.toNat → OnlyAnswers (.mode p f) s p kindMode f ⟨.badArg, false, .empty⟩) ∧
      (value = 0 → (s.session p).state = .idle → OnlyAnswers (.mode p f) s p kindMode f ⟨.ok, false, .empty⟩) ∧
      (value = 1 → (s.session p).state = .run → OnlyAnswers (.mode p f) s p kindMode f ⟨.ok, false, .empty⟩) ∧
      (value = 1 → (s.session p).state = .idle → s.holdsCal p →
        OnlyAnswers (.mode p f) s p kindMode f ⟨.calActive, false, .empty⟩)

/-! ## Claims -/

/-- CLAIM granted at once: R32 case 1, R27, R36, then the grant pass of R29. -/
def Obligations.ClaimGrantedAtOnce : Prop :=
  ∀ (p : Port) (f : Frame) (s : State) (tag : Byte) (set : ChanSet) (flags limit : Byte), s.takes p kindClaim [] f →
    f.payload = claimPayload tag set flags limit → s.admits p f → s.ClaimPasses p tag set flags → s.GrantableAt p set →
    ∃ t u, exec (.claim p f) s = .next t ∧
      (∀ c, u.chan c = if inSet set c then (s.chan c).grant p (s.running p) (s.bankOk c) else s.chan c) ∧
      SameBut [.chans] s u ∧ SameBut [.ports] u.grantPass t ∧
      (∀ c, inSet set c → t.chan c = (s.chan c).grant p (s.running p) (s.bankOk c)) ∧
      Answered s t p kindClaim f ⟨.granted, false, .claim tag 0 0⟩

/-- CLAIM granted by preemption: R32 case 2, R33, R34, R36. Each owned channel of the set is released with its release
action and its owner is sent a REVOKED record, in ascending channel number; then the whole set is granted. -/
def Obligations.ClaimPreempts : Prop :=
  ∀ (p : Port) (f : Frame) (s : State) (tag : Byte) (set : ChanSet) (flags limit : Byte), s.takes p kindClaim [] f →
    f.payload = claimPayload tag set flags limit → s.admits p f → s.ClaimPasses p tag set flags → ¬s.GrantableAt p set →
    flags.getLsbD 1 → s.PreemptionPasses p set →
    ∃ t u revoked, exec (.claim p f) s = .next t ∧
      (∀ c, u.chan c =
        if inSet set c then
          if (s.chan c).owner.isSome then
            ((s.chan c).release (s.bankOk c) (s.chan c).config.releaseAction).grant p (s.running p) (s.bankOk c)
          else (s.chan c).grant p (s.running p) (s.bankOk c)
        else s.chan c) ∧
      Handed s u
        ((allChannels.filter fun c => inSet set c).flatMap fun c => (s.chan c).toOwner (.revoked c p)) ∧
      SameBut [.chans, .queues] s u ∧ SameBut [.ports] u.grantPass t ∧
      (∀ c, inSet set c → t.chan c = u.chan c) ∧
      (∀ c, inSet revoked c = (inSet set c && (s.chan c).owner.isSome)) ∧
      Answered s t p kindClaim f ⟨.granted, false, .claim tag revoked 0⟩

/-- CLAIM queued: R32 case 3, R23, R35. The claim joins behind every claim of equal or higher priority, the grant pass
follows, and the response carries the claim's position after it, from 1. -/
def Obligations.ClaimJoinsList : Prop :=
  ∀ (p : Port) (f : Frame) (s : State) (tag : Byte) (set : ChanSet) (flags limit : Byte), s.takes p kindClaim [] f →
    f.payload = claimPayload tag set flags limit → s.admits p f → s.ClaimPasses p tag set flags → ¬s.GrantableAt p set →
    ¬(flags.getLsbD 1 ∧ s.PreemptionPasses p set) → flags.getLsbD 0 → s.claims.length < 8 →
    (s.claims.filter fun k => decide (k.port = p)).length < 4 → s.Arbitrated →
    ∃ t u ahead behind position, exec (.claim p f) s = .next t ∧
      s.claims = ahead ++ behind ∧ u.claims = ahead ++ s.waitingClaim p tag set limit :: behind ∧
      (∀ k ∈ ahead, (s.session p).priority ≤ k.priority) ∧ (∀ k ∈ behind, k.priority < (s.session p).priority) ∧
      u.arrivals = s.arrivals + 1 ∧ SameBut [.claims, .arrivals] s u ∧ SameBut [.ports] u.grantPass t ∧
      t.claims[position]? = some (s.waitingClaim p tag set limit) ∧
      Answered s t p kindClaim f ⟨.queued, false, .claim tag 0 (position + 1)⟩

/-- CLAIM refused: the checks of R31 in their order, then cases 4 and 5 of R32. Every refusal carries the tag (R36). -/
def Obligations.ClaimRefusals : Prop :=
  ∀ (p : Port) (f : Frame) (s : State) (tag : Byte) (set : ChanSet) (flags limit : Byte), s.takes p kindClaim [] f →
    f.payload = claimPayload tag set flags limit → s.admits p f →
    let answers := fun r : Result => OnlyAnswers (.claim p f) s p kindClaim f ⟨r, false, .claim tag 0 0⟩
    let argsBad := tag = 0 ∨ set = 0 ∨ 3 < flags.toNat
    let overlap :=
      (∃ c, inSet set c ∧ (s.chan c).own = .owned p) ∨
        ∃ k ∈ s.claims, s.ownsClaim p k ∧ ∃ c, inSet set c ∧ inSet k.set c
    let satisfied := s.GrantableAt p set ∨ (flags.getLsbD 1 ∧ s.PreemptionPasses p set)
    (argsBad → answers .badArg) ∧
      (¬argsBad → overlap → answers .ownOverlap) ∧
      (¬argsBad → ¬overlap → (∃ k ∈ s.claims, s.ownsClaim p k ∧ k.tag = tag) → answers .dupTag) ∧
      (s.ClaimPasses p tag set flags → ¬satisfied → flags.getLsbD 0 →
        (8 ≤ s.claims.length ∨ 4 ≤ (s.claims.filter fun k => s.ownsClaim p k).length) → answers .claimFull) ∧
      (s.ClaimPasses p tag set flags → ¬satisfied → flags.getLsbD 0 = false → answers .busy)

/-- CANCEL: R40. -/
def Obligations.CancelRemovesClaim : Prop :=
  ∀ (p : Port) (f : Frame) (s : State) (tag : Byte), s.takes p kindCancel [] f → f.payload = [tag] → s.admits p f →
    (tag ≠ 0 → (∃ k ∈ s.claims, s.ownsClaim p k ∧ k.tag = tag) →
      ∃ t u, exec (.cancel p f) s = .next t ∧
        u.claims = (s.claims.filter fun k => !(s.ownsClaim p k && decide (k.tag = tag))) ∧
        SameBut [.claims] s u ∧ SameBut [.ports] u.grantPass t ∧
        Answered s t p kindCancel f ⟨.ok, false, .empty⟩) ∧
      (tag = 0 → OnlyAnswers (.cancel p f) s p kindCancel f ⟨.badArg, false, .empty⟩) ∧
      (tag ≠ 0 → ¬(∃ k ∈ s.claims, s.ownsClaim p k ∧ k.tag = tag) →
        OnlyAnswers (.cancel p f) s p kindCancel f ⟨.notFound, false, .empty⟩)

/-- RELEASE: the checks of R42 in their order, the effect of R43 and the grant pass of R29. -/
def Obligations.ReleaseFreesChannels : Prop :=
  ∀ (p : Port) (f : Frame) (s : State) (set : ChanSet), s.takes p kindRelease [] f → f.payload = halfBytes set →
    s.admits p f →
    let owned := ∀ c, inSet set c → (s.chan c).own = .owned p
    let calibrated := ∃ c, inSet set c ∧ s.calNames c
    (set = 0 → OnlyAnswers (.release p f) s p kindRelease f ⟨.badArg, false, .empty⟩) ∧
      (set ≠ 0 → ¬owned → OnlyAnswers (.release p f) s p kindRelease f ⟨.notOwner, false, .empty⟩) ∧
      (set ≠ 0 → owned → calibrated → OnlyAnswers (.release p f) s p kindRelease f ⟨.calBusy, false, .empty⟩) ∧
      (set ≠ 0 → owned → ¬calibrated →
        ∃ t u, exec (.release p f) s = .next t ∧
          (∀ c, u.chan c =
            if inSet set c then (s.chan c).release (s.bankOk c) (s.chan c).config.releaseAction else s.chan c) ∧
          SameBut [.chans] s u ∧ SameBut [.ports] u.grantPass t ∧
          Answered s t p kindRelease f ⟨.ok, false, .empty⟩)

/-- The grant pass: R28 with the GRANTED records of R30 and the grants of R27. The list is walked from first to last, each
claim marked as taken or not: it is taken exactly when every channel of its set has no owner, neither before the pass nor
by a claim taken ahead of it, and lies outside the set of the head, the first claim not taken, if that stands ahead of it
(R25, R28). The claims taken leave the list, the others keep their order; afterwards no claim is grantable and the head
alone reserves (R24). -/
def Obligations.GrantPassSettles : Prop :=
  ∀ u : State, (∀ k, ¬u.grantPass.GrantableClaim k) ∧ u.grantPass.ReservedForHead ∧
    ∃ marks : List (Claim × Bool), marks.map Prod.fst = u.claims ∧
      (∀ ahead k taken behind, marks = ahead ++ (k, taken) :: behind →
        (taken = true ↔ ∀ c, inSet k.set c → (u.chan c).owner = none ∧
          (∀ x ∈ ahead, x.2 = true → inSet x.1.set c = false) ∧
          ∀ head, (ahead.filter fun x => !x.2).head? = some head → inSet head.1.set c = false)) ∧
      u.grantPass.claims = (marks.filter fun x => !x.2).map Prod.fst ∧
      let granted := (marks.filter fun x => x.2).map Prod.fst
      (∀ k ∈ granted, ∀ c, inSet k.set c →
        u.grantPass.chan c = (u.chan c).grant k.port (u.running k.port) (u.bankOk c)) ∧
      (∀ c, (∀ k ∈ granted, inSet k.set c = false) → (u.chan c).owner.isSome → u.grantPass.chan c = u.chan c) ∧
      (∀ c, (∀ k ∈ granted, inSet k.set c = false) → (u.chan c).owner = none →
        u.grantPass.chan c =
          { u.chan c with own := if u.grantPass.reservedByHead c then .reserved else .free }) ∧
      Handed u u.grantPass (granted.map fun k => (k.port, .granted k.tag k.set)) ∧
      SameBut [.chans, .claims, .queues] u u.grantPass

/-! ## Channels -/

/-- WRITE accepted: R92, with the limits of R3 and the lease renewed (R66): a session renewed while a timer-unit event
waits does not lapse at it (R69), for which the model marks it (notes/assumptions/30.md). -/
def Obligations.WriteStoresTargets : Prop :=
  ∀ (p : Port) (f : Frame) (s : State) (l : List (Channel × Int)), s.takes p kindWrite [] f →
    f.payload = writePayload l → s.admits p f → 1 ≤ l.length → l.length ≤ 8 → (l.map Prod.fst).Nodup →
    (∀ x ∈ l, -32768 ≤ x.2 ∧ x.2 ≤ 32767) → (∀ x ∈ l, (s.chan x.1).own = .owned p) →
    (∀ x ∈ l, (s.chan x.1).config.range ≠ .off) →
    let limits : Range → Int × Int := fun
      | .off => (0, 0)
      | .driving .v10 => (0, 10500)
      | .driving .vb10 => (-10500, 10500)
      | .driving .i20 => (0, 10500)
      | .driving .i420 => (-2500, 10500)
    let stored := fun x : Channel × Int =>
      max (limits (s.chan x.1).config.range).1 (min (limits (s.chan x.1).config.range).2 x.2)
    let clamped := (l.filter fun x => decide (stored x ≠ x.2)).map fun x => (x.1, stored x)
    let ticks := match s.timebase.multiple with | .m8 => 8 | .m32 => 32 | .m128 => 128
    ∃ t, exec (.write p f) s = .next t ∧
      (∀ x ∈ l, t.chan x.1 = { s.chan x.1 with target := some (stored x) }) ∧
      (∀ c, c ∉ l.map Prod.fst → t.chan c = s.chan c) ∧
      t.session p = { s.session p with counter := (s.session p).lease } ∧ (∀ q, q ≠ p → t.session q = s.session q) ∧
      (∀ q : Port, t.renewed[q] ↔ s.renewed[q] ∨ (q = p ∧ (ticks ≤ s.timebase.tickCount ∨ s.leasesDue))) ∧
      Answered s t p kindWrite f ⟨.ok, decide (clamped ≠ []), .written clamped⟩ ∧
      SameBut [.chans, .sessions, .renewed, .ports] s t

/-- CONFIGURE accepted, of every record within the bounds of R13: the whole record is replaced (R12, R13), in place when
the range is the same (R15), with the effects of a range change when it differs (R14): the cal-default flag tells
whether the record in effect of the channel and the new range is the default one, and is clear in range OFF (R4, R147).
-/
def Obligations.ConfigureReplacesRecord : Prop :=
  ∀ (p : Port) (f : Frame) (s : State) (c : Channel) (k : ChanConfig), s.takes p kindConfigure [] f →
    f.payload = configurePayload c k → s.admits p f →
    1 ≤ k.matchWindow → k.matchWindow ≤ 2000 → k.slewLimit ≤ 10000 → 1 ≤ k.rampStep → k.rampStep ≤ 10000 →
    k.timeout ≤ 255 → 50 ≤ k.deviationLimit → k.deviationLimit ≤ 2000 →
    (match k.range with
      | .off => k.safe = 0
      | .driving .v10 | .driving .i20 => 0 ≤ k.safe ∧ k.safe ≤ 10500
      | .driving .vb10 => -10500 ≤ k.safe ∧ k.safe ≤ 10500
      | .driving .i420 => -2500 ≤ k.safe ∧ k.safe ≤ 10500) →
    (s.chan c).own = .owned p →
    ((s.session p).state = .idle ∨ (s.chan c).config.range = .off) → s.calNames c = false →
    let defaulted := match k.range with | .off => false | .driving d => decide ((s.cell c d).effect = ⟨0, 0⟩)
    let cleared : Chan :=
      { s.chan c with
        config := k, target := none, drive := .off, applied := 0, held := none, forced := none, timer := none
        readback := 0, openLoad := false, openLoadCount := 0, deviation := false, deviationCount := 0
        prevApplied := 0, calDefault := defaulted }
    let value := match k.idleAction with | .safe => k.safe | .hold | .zero => 0
    ∃ t, exec (.configure p f) s = .next t ∧
      (k.range = (s.chan c).config.range → t.chan c = { s.chan c with config := k }) ∧
      (k.range ≠ (s.chan c).config.range → k.range = .off ∨ s.bankOk c = false → t.chan c = cleared) ∧
      (k.range ≠ (s.chan c).config.range → k.range ≠ .off → s.bankOk c → (s.session p).state = .idle →
        t.chan c =
          { cleared with
            drive := .forced, applied := value, forced := some ⟨k.idleAction, some value⟩
            held := if k.idleAction = .hold then some value else none }) ∧
      (k.range ≠ (s.chan c).config.range → k.range ≠ .off → s.bankOk c → (s.session p).state = .run →
        t.chan c =
          { cleared with
            drive := .holding, held := some 0, timer := if k.timeout = 0 then none else some k.timeout }) ∧
      (∀ e, e ≠ c → t.chan e = s.chan e) ∧
      Answered s t p kindConfigure f ⟨.ok, false, .configured c⟩ ∧ SameBut [.chans, .ports] s t

/-- The checks of CONFIGURE (R11, with the bounds of R13 and the limits of R3 on the fields in the order of R174), of
WRITE (R91) and of READ (R17), each in its order. -/
def Obligations.ChannelRequestChecks : Prop :=
  (∀ (p : Port) (f : Frame) (s : State) (channel range preemptible handover timeout idle lapse release : Byte)
      (window slew ramp deviation : Half) (safe : Int), s.takes p kindConfigure [] f →
    f.payload =
      [channel, range, preemptible, handover] ++ halfBytes window ++ halfBytes slew ++ halfBytes ramp
        ++ [timeout, idle, lapse, release] ++ signedBytes safe ++ halfBytes deviation →
    -32768 ≤ safe → safe ≤ 32767 → s.admits p f →
    let answers := fun r : Result => OnlyAnswers (.configure p f) s p kindConfigure f ⟨r, false, .empty⟩
    let codesNamed :=
      range.toNat ≤ 4 ∧ preemptible.toNat ≤ 1 ∧ handover.toNat ≤ 2 ∧ idle.toNat ≤ 2 ∧ lapse.toNat ≤ 2 ∧
        release.toNat ≤ 2
    let safeWithin :=
      (range = 0 → safe = 0) ∧ (range = 1 → 0 ≤ safe ∧ safe ≤ 10500) ∧
        (range = 2 → -10500 ≤ safe ∧ safe ≤ 10500) ∧ (range = 3 → 0 ≤ safe ∧ safe ≤ 10500) ∧
        (range = 4 → -2500 ≤ safe ∧ safe ≤ 10500)
    let accepted :=
      codesNamed ∧ safeWithin ∧ 1 ≤ window.toNat ∧ window.toNat ≤ 2000 ∧ slew.toNat ≤ 10000 ∧ 1 ≤ ramp.toNat ∧
        ramp.toNat ≤ 10000 ∧ 50 ≤ deviation.toNat ∧ deviation.toNat ≤ 2000
    (15 < channel.toNat → answers .badArg) ∧
      ∀ c : Channel, channel.toNat = c.val →
        let driving := (s.session p).state ≠ .idle ∧ (s.chan c).config.range ≠ .off
        ((s.chan c).own ≠ .owned p → answers .notOwner) ∧
          ((s.chan c).own = .owned p → driving → answers .notIdle) ∧
          ((s.chan c).own = .owned p → ¬driving → s.calNames c → answers .calBusy) ∧
          ((s.chan c).own = .owned p → ¬driving → s.calNames c = false → ¬accepted → answers .badArg) ∧
          ((s.chan c).own = .owned p → ¬driving → s.calNames c = false → accepted →
            ∃ t, exec (.configure p f) s = .next t ∧ Answered s t p kindConfigure f ⟨.ok, false, .configured c⟩)) ∧
  (∀ (p : Port) (f : Frame) (s : State) (l : List (Byte × Int)), s.takes p kindWrite [] f →
    f.payload.length ≤ 40 → writeOperands f.payload = some l → s.admits p f →
    let answers := fun r : Result => OnlyAnswers (.write p f) s p kindWrite f ⟨r, false, .empty⟩
    let bad := l = [] ∨ 8 < l.length ∨ (∃ x ∈ l, 15 < x.1.toNat) ∨ ¬(l.map Prod.fst).Nodup
    let owned := ∀ x ∈ l, ∀ c : Channel, x.1.toNat = c.val → (s.chan c).own = .owned p
    let ranged := ∀ x ∈ l, ∀ c : Channel, x.1.toNat = c.val → (s.chan c).config.range ≠ .off
    (bad → answers .badArg) ∧ (¬bad → ¬owned → answers .notOwner) ∧
      (¬bad → owned → ¬ranged → answers .notConfigured)) ∧
  ∀ (p : Port) (f : Frame) (s : State) (l : List Byte), s.takes p kindRead [] f → f.payload.length ≤ 40 →
    readOperands f.payload = some l → l = [] ∨ 3 < l.length ∨ (∃ b ∈ l, 15 < b.toNat) →
    OnlyAnswers (.read p f) s p kindRead f ⟨.badArg, false, .empty⟩

/-- READ: the status records of R17, taken at one instant (R18), with nothing changed but the port, and
the repetitions that its saved copy answers (R19). -/
def Obligations.ReadReportsChannels : Prop :=
  ∀ (p : Port) (f : Frame) (s : State) (l : List Channel), s.takes p kindRead [] f →
    f.payload = natByte l.length :: l.map channelByte → 1 ≤ l.length → l.length ≤ 3 →
    let record := fun c : Channel =>
      ({ channel := c, range := (s.chan c).config.range, own := (s.chan c).own, drive := (s.chan c).drive
         target := (s.chan c).target, applied := (s.chan c).applied, readback := (s.chan c).readback
         fieldOk := decide ((s.bank (bankOf c)).field = .ok), openLoad := (s.chan c).openLoad
         deviation := (s.chan c).deviation, calDefault := (s.chan c).calDefault
         reservedByHead := (s.claims.head?.map fun k => inSet k.set c).getD false } : StatusRecord)
    let reply : Reply := ⟨.ok, false, .channels (l.map record)⟩
    ∃ t, exec (.read p f) s = .next t ∧ Answered s t p kindRead f reply ∧ SameBut [.ports] s t ∧
      RepetitionsReplayed (.read p) t p kindRead [] f reply

/-! ## The drive of a channel -/

/-- The ways a channel is entered: FORCED (R98, R99, R105), handover (R83, R84), field loss (R115); and what a change of
hands makes of it: the grant, which removes the target and enters the channel for its new owner (R27), and the release,
which leaves it FREE with the action entered and the target kept (R34, R43, R48). -/
def Obligations.DriveEntries : Prop :=
  (∀ (r : Chan) (a : Action) (bankOk : Bool),
    let value := match a with | .hold => r.applied | .zero => 0 | .safe => r.config.safe
    (r.config.range = .off → r.force bankOk a = r) ∧
      (r.config.range ≠ .off → bankOk = false → r.force bankOk a = { r with forced := some ⟨a, none⟩ }) ∧
      (r.config.range ≠ .off → bankOk →
        r.force bankOk a =
          { r with
            drive := .forced, applied := value, forced := some ⟨a, some value⟩, timer := none
            held := if a = .hold then some value else none })) ∧
  (∀ (r : Chan) (bankOk : Bool),
    (r.config.range = .off ∨ bankOk = false → r.handover bankOk = r) ∧
      (r.config.range ≠ .off → bankOk →
        r.handover bankOk =
          { r with
            drive := .holding, held := some r.applied, forced := none
            timer := if r.config.timeout = 0 then none else some r.config.timeout })) ∧
  (∀ r : Chan,
    r.fieldLoss =
      { r with
        drive := .off, applied := 0, held := none, timer := none, openLoadCount := 0, deviationCount := 0
        forced :=
          if r.drive = .off then r.forced
          else if r.drive = .forced then r.forced.map fun x => ⟨x.action, none⟩
          else none }) ∧
  (∀ (r : Chan) (p : Port) (bankOk : Bool),
    let granted := { r with own := .owned p, target := none }
    let value := match r.config.idleAction with | .hold => r.applied | .zero => 0 | .safe => r.config.safe
    (r.config.range = .off → ∀ run, r.grant p run bankOk = granted) ∧
      (r.config.range ≠ .off → bankOk = false →
        r.grant p true bankOk = granted ∧
          r.grant p false bankOk = { granted with forced := some ⟨r.config.idleAction, none⟩ }) ∧
      (r.config.range ≠ .off → bankOk →
        r.grant p true bankOk =
            { granted with
              drive := .holding, held := some r.applied, forced := none
              timer := if r.config.timeout = 0 then none else some r.config.timeout } ∧
          r.grant p false bankOk =
            { granted with
              drive := .forced, applied := value, forced := some ⟨r.config.idleAction, some value⟩, timer := none
              held := if r.config.idleAction = .hold then some value else none })) ∧
  ∀ (r : Chan) (a : Action) (bankOk : Bool),
    let value := match a with | .hold => r.applied | .zero => 0 | .safe => r.config.safe
    (r.config.range = .off → r.release bankOk a = { r with own := .free }) ∧
      (r.config.range ≠ .off → bankOk = false →
        r.release bankOk a = { r with own := .free, forced := some ⟨a, none⟩ }) ∧
      (r.config.range ≠ .off → bankOk →
        r.release bankOk a =
          { r with
            own := .free, drive := .forced, applied := value, forced := some ⟨a, some value⟩, timer := none
            held := if a = .hold then some value else none })

/-- The step of one channel at an update tick, by its drive state: R74 to R82. `point`: what the phase of the calibration
context gives, which the last clause states by the table of R82. -/
def Obligations.EngineStepsChannel : Prop :=
  (∀ (r : Chan) (point : Option Int),
    (r.drive = .off ∨ r.drive = .forced → r.tick point = r) ∧
    (r.drive = .holding → r.target = none → r.tick point = r) ∧
    (∀ t, r.drive = .holding → r.target = some t → r.config.handover = .step →
      r.tick point = { r with drive := .follow, applied := t, held := none, timer := none }) ∧
    (∀ t h, r.drive = .holding → r.target = some t → r.config.handover = .matching → r.held = some h →
      r.tick point =
        if (t - h).natAbs ≤ r.config.matchWindow then
          { r with drive := .follow, applied := t, held := none, timer := none }
        else r) ∧
    (∀ t, (r.drive = .holding ∧ r.config.handover = .ramp) ∨ (r.drive = .ramping ∧ r.held = none ∧ r.timer = none) →
      r.target = some t →
      r.tick point =
        if (t - r.applied).natAbs ≤ r.config.rampStep then
          { r with drive := .follow, applied := t, held := none, timer := none }
        else
          { r with
            drive := .ramping, held := none, timer := none
            applied := if r.applied < t then r.applied + r.config.rampStep else r.applied - r.config.rampStep }) ∧
    (∀ t, r.drive = .follow → r.target = some t →
      r.tick point =
        { r with
          applied :=
            if r.config.slewLimit = 0 ∨ (t - r.applied).natAbs ≤ r.config.slewLimit then t
            else if r.applied < t then r.applied + r.config.slewLimit
            else r.applied - r.config.slewLimit }) ∧
    ∀ v, r.drive = .calibrating → point = some v → r.tick point = { r with applied := v }) ∧
  ∀ (s : State) (c : Channel),
    (s.cal = none → s.calValue c = none) ∧
    ∀ x, s.cal = some x →
      (x.channel ≠ c → s.calValue c = none) ∧
      (x.channel = c → x.phase = .opened ∨ x.phase = .computed ∨ x.phase = .committing →
        s.calValue c = some x.start) ∧
      (x.channel = c → x.phase = .low → s.calValue c = some (if x.range = .vb10 then -9000 else 500)) ∧
      (x.channel = c → x.phase = .high → s.calValue c = some (if x.range = .vb10 then 9000 else 9500))

/-- The drive code: the exact product and sum rounded to the nearest unit, a half away from zero, then limited to the
code limits (R96, R97); the code bypasses the record at a calibration point (R82), and an OFF channel has none (R75). -/
def Obligations.DriveCodeFormed : Prop :=
  (∀ (d : DriveRange) (k : Coeff) (a : Int),
    let exact := a * (1000000 + k.gain) + k.offset * 1000000
    let lowest : Int := match d with | .v10 | .i20 => 0 | .vb10 => -10800 | .i420 => -2500
    ∃ n : Int, 2 * (n * 1000000 - exact).natAbs ≤ 1000000 ∧
      (2 * (n * 1000000 - exact).natAbs = 1000000 → exact.natAbs < (n * 1000000).natAbs) ∧
      d.code k a = max lowest (min 10800 n)) ∧
  ∀ (s : State) (c : Channel),
    ((s.chan c).config.range = .off ∨ (s.chan c).drive = .off → s.driveCode c = none) ∧
    ∀ d, (s.chan c).config.range = .driving d →
      ((s.chan c).drive ∈ [Drive.forced, .holding, .ramping, .follow] →
        s.driveCode c = some (d.code (s.cell c d).effect (s.chan c).applied)) ∧
      ∀ x, (s.chan c).drive = .calibrating → s.cal = some x →
        s.driveCode c =
          some (if x.phase = .low ∨ x.phase = .high then (s.chan c).applied
            else d.code (s.cell c d).effect (s.chan c).applied)

/-! ## Notifications -/

/-- A record joins a queue by the table of R128, and a queue whose session is CLOSED or LAPSED takes none (R129). -/
def Obligations.QueueTakesRecord : Prop :=
  (∀ (n : Note) (q : List Note),
    (q.length ≤ 14 → appendNote n q = q ++ [n]) ∧
      (q.length = 15 → (∀ l k t, q ≠ l ++ [⟨.overflow k, t⟩]) → appendNote n q = q ++ [⟨.overflow 1, n.stamp⟩]) ∧
      ∀ l k t, q = l ++ [⟨.overflow k, t⟩] → q.length = 15 ∨ q.length = 16 →
        appendNote n q = l ++ [⟨.overflow (if k < 255 then k + 1 else 255), t⟩]) ∧
  ∀ (s : State) (p : Port) (b : NoteBody),
    SameBut [.queues] s (s.notify p b) ∧ (∀ q, q ≠ p → (s.notify p b).queue q = s.queue q) ∧
      (s.sessionOpen p → (s.notify p b).queue p = appendNote ⟨b, s.timebase.unitCounter⟩ (s.queue p)) ∧
      (s.sessionOpen p = false → (s.notify p b).queue p = s.queue p)

/-- NOTES: R134, with ATTN following the queue (R136); BAD_ARG for a count outside 1 to 4. -/
def Obligations.NotesRemovesRecords : Prop :=
  ∀ (p : Port) (f : Frame) (s : State) (n : Byte), s.takes p kindNotes [] f → f.payload = [n] →
    (s.session p).state ≠ .closed → f.epoch = (s.session p).epoch →
    (1 ≤ n.toNat → n.toNat ≤ 4 →
      ∃ t, exec (.notes p f) s = .next t ∧
        t.queue p = (s.queue p).drop n.toNat ∧ (∀ q, q ≠ p → t.queue q = s.queue q) ∧
        t.attn p = decide (n.toNat < (s.queue p).length) ∧
        Answered s t p kindNotes f ⟨.ok, false, .notes ((s.queue p).take n.toNat)⟩ ∧
        SameBut [.queues, .ports] s t) ∧
      (n.toNat = 0 ∨ 4 < n.toNat → OnlyAnswers (.notes p f) s p kindNotes f ⟨.badArg, false, .empty⟩)

/-! ## Calibration -/

/-- CAL BEGIN: the checks of R141 in their order and its effect. A refusal carries the channel and phase of the context
to its holder alone (R140). -/
def Obligations.CalBeginOpensContext : Prop :=
  ∀ (p : Port) (f : Frame) (s : State) (b : Byte), s.takes p kindCal [stepBegin] f → f.payload = [b] → s.admits p f →
    let refuses := fun r : Result => OnlyAnswers (.calBegin p f) s p kindCal f (s.calRefusal p r)
    (15 < b.toNat → refuses .badArg) ∧
      ∀ c : Channel, b.toNat = c.val →
        (s.cal ≠ none → refuses .calBusy) ∧
        (s.cal = none → (s.chan c).own ≠ .owned p → refuses .notOwner) ∧
        (s.cal = none → (s.chan c).own = .owned p → (s.session p).state = .run → refuses .notIdle) ∧
        (s.cal = none → (s.chan c).own = .owned p → (s.session p).state = .idle → (s.chan c).config.range = .off →
          refuses .notConfigured) ∧
        ∀ d, s.cal = none → (s.chan c).own = .owned p → (s.session p).state = .idle →
          (s.chan c).config.range = .driving d →
          (s.bankOk c = false → refuses .fieldLost) ∧
          (s.bankOk c →
            ∃ t, exec (.calBegin p f) s = .next t ∧
              t.cal =
                some { phase := .opened, port := p, epoch := (s.session p).epoch, channel := c, range := d
                       start := (s.chan c).applied, measuredLow := none, measuredHigh := none, computed := none } ∧
              t.chan c = { s.chan c with drive := .calibrating, forced := none, held := none, timer := none } ∧
              (∀ e, e ≠ c → t.chan e = s.chan e) ∧
              Answered s t p kindCal f ⟨.ok, false, .cal (some c) (some .opened)⟩ ∧
              SameBut [.cal, .chans, .ports] s t)

/-- CAL DRIVE by the holder: R142, and BAD_ARG for a point that is neither LOW nor HIGH, in any phase (R140). CAL
MEASURE by the holder: R143. -/
def Obligations.CalDriveAndMeasure : Prop :=
  (∀ (p : Port) (f : Frame) (s : State) (x : CalContext) (b : Byte), s.takes p kindCal [stepDrive] f →
    f.payload = [b] → s.admits p f → s.cal = some x → x.port = p → x.epoch = (s.session p).epoch →
    (1 < b.toNat →
      OnlyAnswers (.calDrive p f) s p kindCal f ⟨.badArg, false, .cal (some x.channel) (some x.phase)⟩) ∧
    ∀ point : CalPoint, b = point.byte → x.phase ≠ .committing →
      let phase := match point with | .low => CalPhase.low | .high => CalPhase.high
      let raw : Int :=
        match point, x.range with
        | .low, .vb10 => -9000
        | .low, .v10 | .low, .i20 | .low, .i420 => 500
        | .high, .vb10 => 9000
        | .high, .v10 | .high, .i20 | .high, .i420 => 9500
      ∃ t, exec (.calDrive p f) s = .next t ∧
        t.cal = some { x with phase := phase, computed := none } ∧
        t.chan x.channel = { s.chan x.channel with applied := raw } ∧
        (∀ e, e ≠ x.channel → t.chan e = s.chan e) ∧
        Answered s t p kindCal f ⟨.ok, false, .cal (some x.channel) (some phase)⟩ ∧
        SameBut [.cal, .chans, .ports] s t) ∧
  ∀ (p : Port) (f : Frame) (s : State) (x : CalContext) (b : Byte) (v : Int), s.takes p kindCal [stepMeasure] f →
    f.payload = b :: signedBytes v → -32768 ≤ v → v ≤ 32767 → s.admits p f → s.cal = some x → x.port = p →
    x.epoch = (s.session p).epoch →
    (1 < b.toNat ∨ v < -12000 ∨ 12000 < v →
      OnlyAnswers (.calMeasure p f) s p kindCal f ⟨.badArg, false, .cal (some x.channel) (some x.phase)⟩) ∧
    ∀ point : CalPoint, b = point.byte → -12000 ≤ v → v ≤ 12000 →
      let driven := (point = .low ∧ x.phase = .low) ∨ (point = .high ∧ x.phase = .high)
      (¬driven →
        OnlyAnswers (.calMeasure p f) s p kindCal f ⟨.calState, false, .cal (some x.channel) (some x.phase)⟩) ∧
      (driven →
        ∃ t, exec (.calMeasure p f) s = .next t ∧
          (point = .low → t.cal = some { x with measuredLow := some v }) ∧
          (point = .high → t.cal = some { x with measuredHigh := some v }) ∧
          Answered s t p kindCal f ⟨.ok, false, .cal (some x.channel) (some x.phase)⟩ ∧
          SameBut [.cal, .ports] s t)

/-- CAL COMPUTE by the holder with both values measured: R144. The gain is the nearest whole ppm of
(H - L) / (mH - mL) - 1 and the offset the nearest whole unit of L - mL (1 + g / 1000000), a half away from zero. -/
def Obligations.CalComputeFormsCorrections : Prop :=
  ∀ (p : Port) (f : Frame) (s : State) (x : CalContext) (mL mH : Int), s.takes p kindCal [stepCompute] f →
    f.payload = [] → s.admits p f → s.cal = some x → x.port = p → x.epoch = (s.session p).epoch →
    x.phase ∈ [CalPhase.low, .high, .computed] → x.measuredLow = some mL → x.measuredHigh = some mH →
    let low := x.range.rawPoint .low
    let span := x.range.rawPoint .high - low
    (mH - mL ≤ 0 →
      OnlyAnswers (.calCompute p f) s p kindCal f ⟨.outOfLimits, false, .computed (some x.channel) (some x.phase) 0 0⟩) ∧
    (0 < mH - mL →
      ∃ gain offset : Int,
        (let exact := (span - (mH - mL)) * 1000000
         2 * (gain * (mH - mL) - exact).natAbs ≤ (mH - mL).natAbs ∧
          (2 * (gain * (mH - mL) - exact).natAbs = (mH - mL).natAbs → exact.natAbs < (gain * (mH - mL)).natAbs)) ∧
        (let exact := low * 1000000 - mL * (1000000 + gain)
         2 * (offset * 1000000 - exact).natAbs ≤ 1000000 ∧
          (2 * (offset * 1000000 - exact).natAbs = 1000000 → exact.natAbs < (offset * 1000000).natAbs)) ∧
        let inside := -50000 ≤ gain ∧ gain ≤ 50000 ∧ -200 ≤ offset ∧ offset ≤ 200
        (¬inside →
          OnlyAnswers (.calCompute p f) s p kindCal f
            ⟨.outOfLimits, false, .computed (some x.channel) (some x.phase) gain offset⟩) ∧
        (inside →
          ∃ t, exec (.calCompute p f) s = .next t ∧
            t.cal = some { x with phase := .computed, computed := some ⟨gain, offset⟩ } ∧
            t.chan x.channel = { s.chan x.channel with applied := x.start } ∧
            (∀ e, e ≠ x.channel → t.chan e = s.chan e) ∧
            Answered s t p kindCal f ⟨.ok, false, .computed (some x.channel) (some .computed) gain offset⟩ ∧
            SameBut [.cal, .chans, .ports] s t))

/-- CAL DEFAULT by the holder: R145. CAL COMMIT by the holder in COMPUTED: the phase becomes COMMITTING and the port
EXECUTING, with no response placed and the saved copy kept (R148, R169); that the COMMIT ends what its port still held
of a fetch (`sending`) is the model's choice (notes/assumptions/15.md). CAL ABORT by the holder: R146, with the entry of
R102. -/
def Obligations.CalDefaultCommitAndAbort : Prop :=
  (∀ (p : Port) (f : Frame) (s : State) (x : CalContext), s.takes p kindCal [stepDefault] f → f.payload = [] →
    s.admits p f → s.cal = some x → x.port = p → x.epoch = (s.session p).epoch → x.phase ≠ .committing →
    ∃ t, exec (.calDefault p f) s = .next t ∧
      t.cal = some { x with phase := .computed, computed := some ⟨0, 0⟩ } ∧
      t.chan x.channel = { s.chan x.channel with applied := x.start } ∧ (∀ e, e ≠ x.channel → t.chan e = s.chan e) ∧
      Answered s t p kindCal f ⟨.ok, false, .cal (some x.channel) (some .computed)⟩ ∧
      SameBut [.cal, .chans, .ports] s t) ∧
  (∀ (p : Port) (f : Frame) (s : State) (x : CalContext), s.takes p kindCal [stepCommit] f → f.payload = [] →
    s.admits p f → s.cal = some x → x.port = p → x.epoch = (s.session p).epoch → x.phase = .computed →
    ∃ t, exec (.calCommit p f) s = .next t ∧
      t.cal = some { x with phase := .committing } ∧
      t.port p = { s.port p with transport := .executing f.seq, sending := none } ∧
      (∀ q, q ≠ p → t.port q = s.port q) ∧
      SameBut [.cal, .ports] s t) ∧
  ∀ (p : Port) (f : Frame) (s : State) (x : CalContext), s.takes p kindCal [stepAbort] f → f.payload = [] →
    s.admits p f → s.cal = some x → x.port = p → x.epoch = (s.session p).epoch → x.phase ≠ .committing →
    ∃ t, exec (.calAbort p f) s = .next t ∧ t.cal = none ∧
      t.chan x.channel =
        (s.chan x.channel).force (s.bankOk x.channel) (s.chan x.channel).config.idleAction ∧
      (∀ e, e ≠ x.channel → t.chan e = s.chan e) ∧
      Answered s t p kindCal f ⟨.ok, false, .cal (some x.channel) none⟩ ∧
      SameBut [.cal, .chans, .ports] s t

/-- The refusals common to the CAL steps (R140): BAD_ARG for an unknown step, with the channel and phase of the context to
its holder and FFH and NONE to any other; CAL_STATE for every step but BEGIN from a port that does not hold the context;
CAL_STATE for the holder in a phase that does not take the step. -/
def Obligations.CalRefusals : Prop :=
  (∀ (p : Port) (f : Frame) (s : State), (Instr.calUnknownStep p f).wellFormed → s.takes p kindCal [] f →
    f.payload ≠ [] → f.payload.length ≤ 40 → s.admits p f →
    (s.holdsCal p = false →
      OnlyAnswers (.calUnknownStep p f) s p kindCal f ⟨.badArg, false, .cal none none⟩) ∧
    ∀ x, s.cal = some x → s.holdsCal p →
      OnlyAnswers (.calUnknownStep p f) s p kindCal f ⟨.badArg, false, .cal (some x.channel) (some x.phase)⟩) ∧
  (∀ (p : Port) (f : Frame) (s : State), s.admits p f → s.holdsCal p = false →
    let refuses := fun i : Instr => OnlyAnswers i s p kindCal f ⟨.calState, false, .cal none none⟩
    (s.takes p kindCal [stepDrive] f → f.payload.length = 1 → refuses (.calDrive p f)) ∧
      (s.takes p kindCal [stepMeasure] f → f.payload.length = 3 → refuses (.calMeasure p f)) ∧
      (s.takes p kindCal [stepCompute] f → f.payload = [] → refuses (.calCompute p f)) ∧
      (s.takes p kindCal [stepDefault] f → f.payload = [] → refuses (.calDefault p f)) ∧
      (s.takes p kindCal [stepCommit] f → f.payload = [] → refuses (.calCommit p f)) ∧
      (s.takes p kindCal [stepAbort] f → f.payload = [] → refuses (.calAbort p f))) ∧
  ∀ (p : Port) (f : Frame) (s : State) (x : CalContext), s.admits p f → s.cal = some x → s.holdsCal p →
    let refuses := fun i : Instr =>
      OnlyAnswers i s p kindCal f ⟨.calState, false, .cal (some x.channel) (some x.phase)⟩
    (s.takes p kindCal [stepCompute] f → f.payload = [] →
        x.phase = .opened ∨ x.phase = .committing ∨ x.measuredLow = none ∨ x.measuredHigh = none →
        refuses (.calCompute p f)) ∧
      (s.takes p kindCal [stepDrive] f → ∀ point : CalPoint, f.payload = [point.byte] → x.phase = .committing →
        refuses (.calDrive p f)) ∧
      (s.takes p kindCal [stepDefault] f → f.payload = [] → x.phase = .committing → refuses (.calDefault p f)) ∧
      (s.takes p kindCal [stepCommit] f → f.payload = [] → x.phase ≠ .computed → refuses (.calCommit p f)) ∧
      (s.takes p kindCal [stepAbort] f → f.payload = [] → x.phase = .committing → refuses (.calAbort p f))

/-- COMMIT_COMPLETION at which the slot reads back as written: R149, R150. The check word agrees by a check that the spec
does not give and that is a free value here (notes/assumptions/10.md). -/
def Obligations.CommitCompletesVerified : Prop :=
  ∀ (s : State) (x : CalContext) (k : Coeff) (seq : Byte), s.flagsDue = false → s.cal = some x → x.phase = .committing →
    x.computed = some k → (s.port x.port).transport = .executing seq →
    let before := s.cell x.channel x.range
    let older : Fin 2 := if before.newer = some 0 then 1 else 0
    let generation := match before.newer with | some i => before.slots[i].generation + 1 | none => 1
    let response : Response := ⟨kindCal, seq, .ok, false, .committed x.channel x.range generation k⟩
    ∃ t, exec (.commitCompletion true) s = .next t ∧ t.cal = none ∧
      t.cell x.channel x.range =
        { slots :=
            before.slots.set older
              { channel := x.channel, range := x.range, generation := generation, coeff := k
                check := Config.checkWord x.channel x.range.place generation k.gain k.offset }
          newer := some older, effect := k } ∧
      (∀ c d, ¬(c = x.channel ∧ d = x.range) → t.cell c d = s.cell c d) ∧
      t.chan x.channel =
        { (s.chan x.channel).force (s.bankOk x.channel) (s.chan x.channel).config.idleAction with
          calDefault := decide (k = ⟨0, 0⟩) } ∧
      (∀ e, e ≠ x.channel → t.chan e = s.chan e) ∧
      t.port x.port =
        { s.port x.port with transport := .answered response false, saved := some ⟨seq, kindCal, response⟩ } ∧
      (∀ q, q ≠ x.port → t.port q = s.port q) ∧
      SameBut [.cal, .store, .chans, .ports] s t

/-- COMMIT_COMPLETION at which the slot does not read back: R151. The written slot is invalid; the newer slot and the
record in effect stay. What the invalid slot's other fields hold is the model's choice, its check word a free value that
does not agree with them (notes/assumptions/10.md). -/
def Obligations.CommitCompletesFailed : Prop :=
  ∀ (s : State) (x : CalContext) (seq : Byte), s.flagsDue = false → s.cal = some x → x.phase = .committing →
    (s.port x.port).transport = .executing seq →
    let before := s.cell x.channel x.range
    let older : Fin 2 := if before.newer = some 0 then 1 else 0
    ∃ t phase, exec (.commitCompletion false) s = .next t ∧
      (let slot := (t.cell x.channel x.range).slots[older]
       slot.check ≠ Config.checkWord slot.channel slot.range.place slot.generation slot.coeff.gain slot.coeff.offset) ∧
      (∀ i, i ≠ older → (t.cell x.channel x.range).slots[i] = before.slots[i]) ∧
      (t.cell x.channel x.range).newer = before.newer ∧ (t.cell x.channel x.range).effect = before.effect ∧
      (∀ c d, ¬(c = x.channel ∧ d = x.range) → t.cell c d = s.cell c d) ∧
      ((s.chan x.channel).drive = .calibrating →
        phase = some .computed ∧ t.cal = some { x with phase := .computed } ∧ t.chans = s.chans ∧
          t.queues = s.queues) ∧
      ((s.chan x.channel).drive ≠ .calibrating →
        phase = none ∧ t.cal = none ∧
          t.chan x.channel =
            (s.chan x.channel).force (s.bankOk x.channel) (s.chan x.channel).config.idleAction ∧
          (∀ e, e ≠ x.channel → t.chan e = s.chan e) ∧ Handed s t [(x.port, .calAborted x.channel)]) ∧
      (let response : Response := ⟨kindCal, seq, .storeFailed, false, .storeFailed x.channel phase x.range⟩
       t.port x.port =
        { s.port x.port with transport := .answered response false, saved := some ⟨seq, kindCal, response⟩ }) ∧
      (∀ q, q ≠ x.port → t.port q = s.port q) ∧
      SameBut [.cal, .store, .chans, .queues, .ports] s t

/-! ## Timebase and STATUS -/

/-- TIMEBASE READ: R158. Any session state and any epoch are accepted, nothing changes but the port, and the response is
saved for replay. -/
def Obligations.TimebaseReadReports : Prop :=
  ∀ (p : Port) (f : Frame) (s : State), s.takes p kindTimebase [variantRead] f → f.payload = [] →
    let reply : Reply :=
      ⟨.ok, false,
        .timebase s.timebase.period s.timebase.multiple s.timebase.unitCounter s.timebase.hold
          (decide (∃ q, (s.session q).state = .idle ∨ (s.session q).state = .run))⟩
    ∃ t, exec (.timebaseRead p f) s = .next t ∧ Answered s t p kindTimebase f reply ∧ SameBut [.ports] s t ∧
      RepetitionsReplayed (.timebaseRead p) t p kindTimebase [variantRead] f reply

/-- TIMEBASE WRITE: the checks of R159 in their order and the effect of R160. A tick taken before an accepted WRITE is
taken in full, so that nothing of it is left for later (R61, R160): its timer-unit event, which raises the unit counter,
and the field events of its banks, whose channels have no owner (R106, R115); no lease or wait counts and no channel is
in HOLDING, since no session is open (R160). An unknown variant is BAD_ARG. -/
def Obligations.TimebaseWriteSetsParameters : Prop :=
  (∀ (p : Port) (f : Frame) (s : State) (b m : Byte), s.takes p kindTimebase [variantWrite] f → f.payload = [b, m] →
    (4 < b.toNat ∨ 2 < m.toNat →
      OnlyAnswers (.timebaseWrite p f) s p kindTimebase f ⟨.badArg, false, .empty⟩) ∧
    ∀ (period : Period) (multiple : Multiple), b = period.byte → m = multiple.byte →
      ((∃ q, s.sessionOpen q) →
        OnlyAnswers (.timebaseWrite p f) s p kindTimebase f ⟨.locked, false, .empty⟩) ∧
      (s.quiet → (∀ q, s.sessionOpen q = false) →
        ∃ t, exec (.timebaseWrite p f) s = .next t ∧
          t.timebase = { s.timebase with period := period, multiple := multiple, tickCount := 0 } ∧
          Answered s t p kindTimebase f ⟨.ok, false, .timebaseSet period multiple⟩ ∧
          SameBut [.timebase, .ports] s t) ∧
      (s.Sound → s.Arbitrated → (∀ q, s.sessionOpen q = false) →
        let ticks := match s.timebase.multiple with | .m8 => 8 | .m32 => 32 | .m128 => 128
        let lost := fun b : Bank => (s.bank b).field = .ok ∧ 2 ≤ (s.bank b).count
        let restored := fun b : Bank => (s.bank b).field = .lost ∧ 8 ≤ (s.bank b).count
        ∃ t, exec (.timebaseWrite p f) s = .next t ∧
          t.timebase =
            { s.timebase with
              period := period, multiple := multiple, tickCount := 0
              unitCounter :=
                if ticks ≤ s.timebase.tickCount then s.timebase.unitCounter + 1 else s.timebase.unitCounter } ∧
          t.stepDue = false ∧ t.waitsDue = false ∧ t.leasesDue = false ∧ (∀ q : Port, t.renewed[q] = false) ∧
          (∀ b, (lost b → t.bank b = ⟨.lost, 0⟩) ∧ (restored b → t.bank b = ⟨.ok, 0⟩) ∧
            (¬lost b → ¬restored b → t.bank b = s.bank b)) ∧
          (∀ c, (lost (bankOf c) → t.chan c = (s.chan c).fieldLoss) ∧
            (restored (bankOf c) → ∀ x, (s.chan c).forced = some x → t.chan c = (s.chan c).force true x.action) ∧
            (restored (bankOf c) → (s.chan c).forced = none → t.chan c = (s.chan c).force true .hold) ∧
            (¬lost (bankOf c) → ¬restored (bankOf c) → t.chan c = s.chan c)) ∧
          Answered s t p kindTimebase f ⟨.ok, false, .timebaseSet period multiple⟩ ∧
          SameBut [.chans, .banks, .timebase, .stepDue, .waitsDue, .leasesDue, .renewed, .ports] s t)) ∧
  ∀ (p : Port) (f : Frame) (s : State), (Instr.timebaseUnknownVariant p f).wellFormed →
    s.takes p kindTimebase [] f → f.payload ≠ [] → f.payload.length ≤ 40 →
    OnlyAnswers (.timebaseUnknownVariant p f) s p kindTimebase f ⟨.badArg, false, .empty⟩

/-- STATUS: R172, with the counts of R22 and R127 computed from the list and the queue. -/
def Obligations.StatusReportsFields : Prop :=
  ∀ (p : Port) (f : Frame) (s : State), s.takes p kindStatus [] f → f.payload = [] →
    ∃ t x, exec (.status p f) s = .next t ∧
      Answered s t p kindStatus f ⟨.ok, false, .status x⟩ ∧ SameBut [.ports] s t ∧
      RepetitionsReplayed (.status p) t p kindStatus [] f ⟨.ok, false, .status x⟩ ∧
      x.session = s.session p ∧
      x.pendingClaims = (s.claims.filter fun k => decide (k.port = p ∧ k.epoch = (s.session p).epoch)).length ∧
      x.queueCount = (s.queue p).length ∧
      x.crcErrors = (s.port p).crcErrors ∧ x.frameErrors = (s.port p).frameErrors ∧
      x.overruns = (s.port p).overruns ∧ x.hold = s.timebase.hold ∧
      (∀ b : Bank, x.banks[b] = (s.bank b).field) ∧ x.listLength = s.claims.length ∧
      x.contextInUse = decide (s.cal ≠ none)

/-- While any session is IDLE or RUN, no command but RESET changes the update period or the multiple (R159). -/
def Obligations.ParametersLockedBySession : Prop :=
  ∀ (i : Instr) (s t : State), (∃ p, s.sessionOpen p) → (∀ b, i ≠ .reset b) → exec i s = .next t →
    t.timebase.period = s.timebase.period ∧ t.timebase.multiple = s.timebase.multiple

/-- The edges of MHOLD: R161. That an edge which is none changes nothing is the model's choice (notes/assumptions/3.md),
and so is that one while RESET is asserted changes nothing (notes/assumptions/5.md). -/
def Obligations.HoldEdgesReported : Prop :=
  (∀ s : State, s.quiet → s.resetAsserted = false → s.timebase.hold = .released →
    ∃ t, exec .holdAssertion s = .next t ∧ t.timebase = { s.timebase with hold := .asserted } ∧
      (∀ p, t.queue p =
        if s.sessionOpen p then appendNote ⟨.holdOn, s.timebase.unitCounter⟩ (s.queue p) else s.queue p) ∧
      SameBut [.timebase, .queues] s t) ∧
  (∀ s : State, s.quiet → s.resetAsserted = false → s.timebase.hold = .asserted →
    ∃ t, exec .holdRelease s = .next t ∧ t.timebase = { s.timebase with hold := .released } ∧
      (∀ p, t.queue p =
        if s.sessionOpen p then appendNote ⟨.holdOff, s.timebase.unitCounter⟩ (s.queue p) else s.queue p) ∧
      SameBut [.timebase, .queues] s t) ∧
  ∀ s : State,
    (s.resetAsserted ∨ s.timebase.hold = .asserted → exec .holdAssertion s = .next s) ∧
      (s.resetAsserted ∨ s.timebase.hold = .released → exec .holdRelease s = .next s)

/-! ## Ports -/

/-- A good frame on a READY port: STARTING while the load runs, else FORMAT when the length is not the layout's or the
kind names none of the fourteen (R167); the request is not executed and the saved copy stays. It covers every request
row, UNKNOWN_KIND_FRAME among them, whose kind fits no layout. -/
def Obligations.StartingAndFormatAnswered : Prop :=
  ∀ (i : Instr) (r : Request) (s : State), requestOf i = some r → i.wellFormed →
    s.ready r.port r.kind r.lead r.frame →
    (s.starting →
      ∃ t, exec i s = .next t ∧ Placed s t r.port ⟨r.kind, r.frame.seq, .starting, false, .empty⟩ false ∧
        SameBut [.ports] s t) ∧
    (s.starting = false → layoutFits r.kind r.payload = false →
      ∃ t, exec i s = .next t ∧ Placed s t r.port ⟨r.kind, r.frame.seq, .format, false, .empty⟩ false ∧
        SameBut [.ports] s t) ∧
    (r.kind ∉ namedKinds → layoutFits r.kind r.payload = false)

/-- A good frame that meets an EXECUTING or ANSWERED port is discarded, counted and flagged, whatever its kind (R166). -/
def Obligations.OverrunsDiscarded : Prop :=
  ∀ (i : Instr) (r : Request) (s : State), requestOf i = some r → i.wellFormed → s.flagsDue = false →
    crcGood r.kind (withLead r.lead r.frame) → (s.port r.port).transport ≠ .ready →
    ∃ t, exec i s = .next t ∧
      t.port r.port =
        { s.port r.port with
          overruns := if (s.port r.port).overruns < 255 then (s.port r.port).overruns + 1 else 255
          overrunPending := true, sending := (t.port r.port).sending } ∧
      (∀ q, q ≠ r.port → t.port q = s.port q) ∧ SameBut [.ports] s t

/-- A frame whose sequence number and kind are those of the saved copy is answered with the saved response and the REPLAY
flag, whatever its epoch and payload (R168). -/
def Obligations.ReplaysAnswered : Prop :=
  ∀ (i : Instr) (r : Request) (s : State) (copy : SavedCopy), requestOf i = some r → i.wellFormed →
    s.ready r.port r.kind r.lead r.frame → s.starting = false → layoutFits r.kind r.payload →
    (s.port r.port).saved = some copy → copy.seq = r.frame.seq → copy.kind = r.kind →
    ∃ t, exec i s = .next t ∧ Placed s t r.port copy.response true ∧ SameBut [.ports] s t

/-- The session gate: R56, R57. A refused request is answered and saved, and nothing else changes. A CLAIM refusal carries
its tag, a CAL refusal FFH and NONE, any other nothing (R36, R140, R175). -/
def Obligations.GateRefusesRequests : Prop :=
  ∀ (i : Instr) (r : Request) (s : State), requestOf i = some r → i.wellFormed →
    s.takes r.port r.kind r.lead r.frame → layoutFits r.kind r.payload →
    let x := s.session r.port
    let payload : Payload :=
      if r.kind = kindClaim then .claim (r.payload.headD 0) 0 0
      else if r.kind = kindCal then .cal none none
      else .empty
    let refuses := fun e : Result => OnlyAnswers i s r.port r.kind r.frame ⟨e, false, payload⟩
    (r.gate ≠ .exempt → x.state = .closed → refuses .notOpen) ∧
      (r.gate = .gated → x.state = .lapsed → refuses .lapsed) ∧
      (r.gate = .gated → x.state = .idle ∨ x.state = .run → r.frame.epoch ≠ x.epoch → refuses .stale) ∧
      (r.gate = .keeping → x.state ≠ .closed → r.frame.epoch ≠ x.epoch → refuses .stale)

/-- FRAME_ERROR and CRC_ERROR_FRAME: the frame is discarded and its count rises, in every transport state (R165). That the
frame of a fetch still going on is given up is the model's choice (notes/assumptions/15.md). -/
def Obligations.DiscardedFramesCounted : Prop :=
  (∀ (p : Port) (received : List Byte) (s : State), (Instr.frameError p received).wellFormed → s.flagsDue = false →
    ∃ t, exec (.frameError p received) s = .next t ∧
      t.port p =
        { s.port p with
          frameErrors := if (s.port p).frameErrors < 255 then (s.port p).frameErrors + 1 else 255, sending := none } ∧
      (∀ q, q ≠ p → t.port q = s.port q) ∧ SameBut [.ports] s t) ∧
  ∀ (p : Port) (kind : Byte) (f : Frame) (s : State), (Instr.crcErrorFrame p kind f).wellFormed → s.flagsDue = false →
    ∃ t, exec (.crcErrorFrame p kind f) s = .next t ∧
      t.port p =
        { s.port p with
          crcErrors := if (s.port p).crcErrors < 255 then (s.port p).crcErrors + 1 else 255, sending := none } ∧
      (∀ q, q ≠ p → t.port q = s.port q) ∧ SameBut [.ports] s t

/-- FETCH: the frame fixed by the transport state (R170) with its flags (R171, R137). RESPONSE_CLOCKED_OUT: a response
clocked out whole empties the buffer, clears overrun pending and makes the port READY; a NONE or PENDING frame changes
nothing (R170). SDO: the bytes of the frame after the fetch code, and FFH during it, beyond the frame and throughout a
selection that carries a request frame (R170). The bytes of a frame: its layout, its named flag bits, and its CRC (R165,
R175); the result codes (R176); the payloads, status records and notification records with their codes (R173, R175).
What the flag bits hold that R175 does not name is left open here. That the frame is held from the fetch to the end of
its selection (`sending`) is the model's choice (notes/assumptions/15.md). -/
def Obligations.FetchesReturnResponses : Prop :=
  (∀ (p : Port) (s : State), s.flagsDue = false →
    ∃ t x, exec (.fetch p) s = .next t ∧ t.port p = { s.port p with sending := some x } ∧
      (∀ q, q ≠ p → t.port q = s.port q) ∧ SameBut [.ports] s t ∧
      x.queueFlag = decide (s.queue p ≠ []) ∧
      ((s.port p).transport = .ready →
        x.kind = 0x00 ∧ x.seq = 0x00 ∧ x.result = .noneHeld ∧ x.payload = .empty ∧ x.replayFlag = false ∧
          x.overrunFlag = false ∧ x.clampedFlag = false) ∧
      (∀ seq, (s.port p).transport = .executing seq →
        x.kind = kindCal ∧ x.seq = seq ∧ x.result = .pending ∧ x.payload = .empty ∧ x.replayFlag = false ∧
          x.overrunFlag = false ∧ x.clampedFlag = false) ∧
      ∀ r replay, (s.port p).transport = .answered r replay →
        x.kind = r.kind ∧ x.seq = r.seq ∧ x.result = r.result ∧ x.payload = r.payload ∧ x.replayFlag = replay ∧
          x.overrunFlag = (s.port p).overrunPending ∧ x.clampedFlag = r.clamped) ∧
  (∀ (p : Port) (s : State) (x : SentFrame), s.flagsDue = false → (s.port p).sending = some x →
    ∃ t, exec (.responseClockedOut p) s = .next t ∧
      (∀ q, q ≠ p → t.port q = s.port q) ∧ SameBut [.ports] s t ∧
      (∀ r replay, (s.port p).transport = .answered r replay → x.result ≠ .noneHeld → x.result ≠ .pending →
        t.port p = { s.port p with transport := .ready, overrunPending := false, sending := none }) ∧
      (x.result = .noneHeld ∨ x.result = .pending → t.port p = { s.port p with sending := none })) ∧
  let one := fun n : Nat => (BitVec.ofNat 8 n : Byte)
  let two := fun h : Half => [(h >>> 8).setWidth 8, (h.setWidth 8 : Byte)]
  let signedTwo := fun v : Int => two (BitVec.ofInt 16 v)
  let signedFour := fun v : Int =>
    let w : BitVec 32 := BitVec.ofInt 32 (max (-2147483647) (min 2147483647 v))
    two ((w >>> 16).setWidth 16) ++ two (w.setWidth 16)
  let yes := fun b : Bool => (if b then 1 else 0 : Byte)
  let channel : Option Channel → Byte := fun | some c => one c.val | none => 0xFF
  let driving : DriveRange → Byte := fun | .v10 => 1 | .vb10 => 2 | .i20 => 3 | .i420 => 4
  let phase : Option CalPhase → Byte := fun
    | none => 0 | some .opened => 1 | some .low => 2 | some .high => 3 | some .computed => 4 | some .committing => 5
  -- SDO
  (∀ (s : State) (p : Port) (received : List Byte),
    (received.head? ≠ some 0xA5 → s.sdo p received = 0xFF) ∧
    ∀ (later : List Byte) (x : SentFrame), received = 0xA5 :: later → (s.port p).sending = some x →
      let body := [x.kind, x.seq, x.result.byte, x.flags, one x.payload.bytes.length] ++ x.payload.bytes
      let sent := body ++ two (crc16 body)
      (∀ i b, sent[i]? = some b → later.length = i → s.sdo p received = b) ∧
        (sent.length ≤ later.length → s.sdo p received = 0xFF)) ∧
  -- the response flags and the CRC
  (∀ x : SentFrame, x.flags.getLsbD 0 = x.queueFlag ∧ x.flags.getLsbD 1 = x.replayFlag ∧
    x.flags.getLsbD 2 = x.overrunFlag ∧ x.flags.getLsbD 3 = x.clampedFlag) ∧
  (crc16 [] = 0xFFFF ∧ crc16 [0x31, 0x32, 0x33, 0x34, 0x35, 0x36, 0x37, 0x38, 0x39] = 0x29B1 ∧
    ∀ l b, crc16 (l ++ [b]) =
      (List.range 8).foldl
        (fun (r : Half) i => if r.getLsbD 15 ≠ b.getLsbD (7 - i) then (r <<< 1) ^^^ 0x1021 else r <<< 1) (crc16 l)) ∧
  -- result codes
  (∀ e ∈ ([(.ok, 0x00), (.granted, 0x01), (.queued, 0x02), (.pending, 0x03), (.noneHeld, 0x04), (.starting, 0x05),
      (.format, 0x06), (.notOpen, 0x07), (.lapsed, 0x08), (.stale, 0x09), (.alreadyOpen, 0x0A), (.badArg, 0x0B),
      (.notOwner, 0x0C), (.notConfigured, 0x0D), (.notIdle, 0x0E), (.ownOverlap, 0x0F), (.dupTag, 0x10), (.busy, 0x11),
      (.claimFull, 0x12), (.notFound, 0x13), (.calBusy, 0x14), (.calState, 0x15), (.calActive, 0x16),
      (.fieldLost, 0x17), (.outOfLimits, 0x18), (.storeFailed, 0x19), (.locked, 0x1A)] : List (Result × Byte)),
    e.1.byte = e.2) ∧
  -- payloads
  (Payload.empty.bytes = [] ∧
    (∀ epoch priority, (Payload.opened epoch priority).bytes = two epoch ++ [one priority]) ∧
    (∀ tag revoked position, (Payload.claim tag revoked position).bytes = tag :: (two revoked ++ [one position])) ∧
    (∀ l, (Payload.written l).bytes = one l.length :: l.flatMap fun x => one x.1.val :: signedTwo x.2) ∧
    (∀ c, (Payload.configured c).bytes = [one c.val]) ∧
    (∀ l, (Payload.channels l).bytes = one l.length :: l.flatMap StatusRecord.bytes) ∧
    (∀ l, (Payload.notes l).bytes = one l.length :: l.flatMap Note.bytes) ∧
    (∀ c x, (Payload.cal c x).bytes = [channel c, phase x]) ∧
    (∀ c x gain offset,
      (Payload.computed c x gain offset).bytes = [channel c, phase x] ++ signedFour gain ++ signedFour offset) ∧
    (∀ c d generation (k : Coeff), (Payload.committed c d generation k).bytes =
      [one c.val, phase none, driving d, generation] ++ signedFour k.gain ++ signedFour k.offset) ∧
    (∀ c x d, (Payload.storeFailed c x d).bytes = [one c.val, phase x, driving d]) ∧
    (∀ period multiple units hold lock, (Payload.timebase period multiple units hold lock).bytes =
      [period.byte, multiple.byte] ++ two units ++ [yes (decide (hold = .asserted)), yes lock]) ∧
    (∀ period multiple, (Payload.timebaseSet period multiple).bytes = [period.byte, multiple.byte]) ∧
    (∀ e ∈ ([(.us250, 0), (.us500, 1), (.ms1, 2), (.ms2, 3), (.ms4, 4)] : List (Period × Byte)), e.1.byte = e.2) ∧
    (∀ e ∈ ([(.m8, 0), (.m32, 1), (.m128, 2)] : List (Multiple × Byte)), e.1.byte = e.2) ∧
    ∀ x : StatusFields, ∃ state banks : Byte,
      (Payload.status x).bytes =
        [state] ++ two x.session.epoch ++
          [one x.session.priority, one x.session.lease, one x.session.counter, one x.pendingClaims, one x.queueCount,
            one x.crcErrors, one x.frameErrors, one x.overruns, yes (decide (x.hold = .asserted)), banks,
            one x.listLength, yes x.contextInUse] ∧
      (match x.session.state with | .closed => state = 0 | .idle => state = 1 | .run => state = 2 | .lapsed => state = 3) ∧
      ∀ b : Bank, banks.getLsbD b = decide (x.banks[b] = .ok)) ∧
  -- channel status records
  (∀ r : StatusRecord, ∃ own owner drive flags : Byte,
    r.bytes =
      [one r.channel.val, (match r.range with | .off => 0 | .driving d => driving d), own, owner, drive, flags] ++
        signedTwo (r.target.getD 0) ++ signedTwo r.applied ++ signedTwo r.readback ∧
    (match r.own with
      | .free => own = 0 ∧ owner = 0xFF
      | .reserved => own = 1 ∧ owner = 0xFF
      | .owned p => own = 2 ∧ owner = one p.val) ∧
    (match r.drive with
      | .off => drive = 0
      | .forced => drive = 1
      | .holding => drive = 2
      | .ramping => drive = 3
      | .follow => drive = 4
      | .calibrating => drive = 5) ∧
    flags.getLsbD 0 = r.target.isSome ∧ flags.getLsbD 1 = r.fieldOk ∧ flags.getLsbD 2 = r.openLoad ∧
    flags.getLsbD 3 = r.deviation ∧ flags.getLsbD 4 = r.calDefault ∧ flags.getLsbD 5 = r.reservedByHead) ∧
  -- notification records: kind, the presence of channel, bank, tag, other port and value, place, ident, value
  ∀ n : Note,
    let expected : Byte × List Bool × Byte × Byte × List Byte :=
      match n.body with
      | .granted tag set => (0x01, [false, false, true, false, true], 0xFF, tag, two set)
      | .revoked c other => (0x02, [true, false, false, true, false], one c.val, one other.val, [0, 0])
      | .claimExpired tag => (0x03, [false, false, true, false, false], 0xFF, tag, [0, 0])
      | .handoverDone c v => (0x04, [true, false, false, false, true], one c.val, 0xFF, signedTwo v)
      | .handoverForced c v => (0x05, [true, false, false, false, true], one c.val, 0xFF, signedTwo v)
      | .handoverStalled c v => (0x06, [true, false, false, false, true], one c.val, 0xFF, signedTwo v)
      | .fieldLost b => (0x07, [false, true, false, false, false], one b.val, 0xFF, [0, 0])
      | .fieldRestored b => (0x08, [false, true, false, false, false], one b.val, 0xFF, [0, 0])
      | .openLoad c set => (0x09, [true, false, false, false, true], one c.val, 0xFF, [0, yes set])
      | .deviation c set => (0x0A, [true, false, false, false, true], one c.val, 0xFF, [0, yes set])
      | .holdOn => (0x0B, [false, false, false, false, false], 0xFF, 0xFF, [0, 0])
      | .holdOff => (0x0C, [false, false, false, false, false], 0xFF, 0xFF, [0, 0])
      | .calAborted c => (0x0D, [true, false, false, false, false], one c.val, 0xFF, [0, 0])
      | .leaseLapsed => (0x0E, [false, false, false, false, false], 0xFF, 0xFF, [0, 0])
      | .overflow lost => (0x0F, [false, false, false, false, true], 0xFF, 0xFF, two (BitVec.ofNat 16 lost))
    ∃ presence : Byte,
      n.bytes =
        [expected.1, presence, expected.2.2.1, expected.2.2.2.1] ++ expected.2.2.2.2 ++ two n.stamp ∧
      ∀ i < 5, presence.getLsbD i = expected.2.1.getD i false

/-- The bytes of a selection spell the command, and the command spells those bytes: R165, R170, R174. No operand of a
request, of a discarded frame or of a fetch is lost on the way. That a row's operand leaves out the bytes that the row
fixes, and the bytes after the frame, is how the model reads the table (notes/assumptions/24.md). -/
def Obligations.SelectionsSpellCommands : Prop :=
  ∀ (i : Instr) (p : Port) (l : List Byte), i.wellFormed → i.crcIntact → selectionOf i = some (p, l) →
    commandOfSelection p l = some i

/-! ## Paced events -/

/-- UPDATE_TICK: the monitor samples before the engine steps (R113), and before the tick's timer-unit event too, which
is the model's choice (notes/assumptions/31.md): the field counts by R114, the readbacks by R10 and R115, the open-load
counts by R121 and R122, the deviation counts by R123 and R124; the tick count rises (R156). With this operand the
engine's step waits: that the order is an operand is the model's choice (notes/assumptions/1.md). That a channel whose
driver is disabled reads as an undriven output whatever the operand says is the model's reading of R115
(notes/assumptions/13.md). While the hold lasts, no tick is produced (R161); that none is while RESET is asserted is the
model's choice (notes/assumptions/5.md). -/
def Obligations.UpdateTickSamples : Prop :=
  (∀ (field : Vector Bool 4) (loop : Vector Int 16) (s : State), s.quiet → s.resetAsserted = false →
    s.timebase.hold = .released →
    ∃ t, exec (.updateTick field loop .stepLast) s = .next t ∧
      t.timebase = { s.timebase with tickCount := s.timebase.tickCount + 1 } ∧ t.stepDue = true ∧
      (∀ b : Bank, t.bank b =
        match (s.bank b).field, field[b] with
        | .ok, true => ⟨.ok, 0⟩
        | .ok, false => ⟨.ok, (s.bank b).count + 1⟩
        | .lost, true => ⟨.lost, (s.bank b).count + 1⟩
        | .lost, false => ⟨.lost, 0⟩) ∧
      (∀ c, (s.chan c).config.range = .off → t.chan c = s.chan c) ∧
      (∀ (c : Channel) (d : DriveRange), (s.chan c).config.range = .driving d →
        let r := s.chan c
        let readback : Int :=
          if r.drive = .off then (if d = .i420 then -2500 else 0) else max (-12000) (min 12000 loop[c])
        let high := field[bankOf c] = true
        let loopEvaluated :=
          high ∧ r.drive ≠ .off ∧ r.drive ≠ .calibrating ∧
            ((d = .i20 ∧ 500 ≤ r.applied) ∨ (d = .i420 ∧ -1875 ≤ r.applied))
        let current := (d = .i20 ∧ 200 ≤ readback) ∨ (d = .i420 ∧ -2250 ≤ readback)
        let deviationEvaluated :=
          high ∧ (r.drive = .forced ∨ r.drive = .holding ∨ r.drive = .follow) ∧
            (r.applied - r.prevApplied).natAbs ≤ r.config.deviationLimit
        let deviates := r.config.deviationLimit < (readback - r.applied).natAbs
        ∃ openLoads deviations : Nat,
          (loopEvaluated → (current ↔ r.openLoad) → openLoads = r.openLoadCount + 1) ∧
          (loopEvaluated → ¬(current ↔ r.openLoad) → openLoads = 0) ∧
          (¬loopEvaluated → openLoads = 0) ∧
          (deviationEvaluated → (deviates ↔ r.deviation = false) → deviations = r.deviationCount + 1) ∧
          (deviationEvaluated → ¬(deviates ↔ r.deviation = false) → deviations = 0) ∧
          (¬deviationEvaluated → deviations = 0) ∧
          t.chan c =
            { r with
              readback := readback, openLoadCount := openLoads, deviationCount := deviations
              prevApplied := r.applied }) ∧
      SameBut [.chans, .banks, .timebase, .stepDue] s t) ∧
  ∀ (field : Vector Bool 4) (loop : Vector Int 16) (order : TickOrder) (s : State),
    s.resetAsserted ∨ s.timebase.hold = .asserted → exec (.updateTick field loop order) s = .next s

/-- The engine's step at a tick, from the state `u` that the monitor's sampling left: the flag changes of the tick and
their records come first, for the monitor takes the tick as one event before the step (R113); then every channel steps,
and each that enters FOLLOW from HOLDING or RAMPING makes HANDOVER_DONE for its owner, in ascending channel number (R74,
R88). The operand `stepNow` takes the step that waits; with `whole` the events due are taken after the sampling, in the
model's order: the operand and that order are the model's choice (notes/assumptions/1.md, 2.md). -/
def Obligations.UpdateTickSteps : Prop :=
  let steps := fun u t : State =>
    ∃ v, FlagsTaken u v ∧
      (∀ c, t.chan c = (v.chan c).tick (v.calValue c)) ∧
      Handed v t
        (allChannels.flatMap fun c =>
          if ((v.chan c).drive = .holding ∨ (v.chan c).drive = .ramping) ∧ (t.chan c).drive = .follow then
            (v.chan c).toOwner (.handoverDone c (t.chan c).applied)
          else []) ∧
      t.stepDue = false ∧ SameBut [.chans, .queues, .stepDue] v t
  (∀ (field : Vector Bool 4) (loop : Vector Int 16) (s : State), s.quiet → s.resetAsserted = false →
    s.timebase.hold = .released →
    ∃ u t, exec (.updateTick field loop .stepLast) s = .next u ∧
      exec (.updateTick field loop .stepFirst) s = .next t ∧
      exec (.updateTick field loop .whole) s = .next u.takeDue ∧ steps u t) ∧
  ∀ (field : Vector Bool 4) (loop : Vector Int 16) (u : State), u.resetAsserted = false → u.timebase.hold = .released →
    (u.stepDue → ∃ t, exec (.updateTick field loop .stepNow) u = .next t ∧ steps u t) ∧
      (u.stepDue = false → exec (.updateTick field loop .stepNow) u = .next u)

/-- TIMER_UNIT_EVENT: due when the tick count has reached M, 8, 32 or 128 (R155, R156), with no flag change due. The
unit counter rises and wraps (R157); lease counters of open sessions whose port is not EXECUTING (R67), claim waits
(R45) and running handover timers of HOLDING channels (R84) fall by one; the counter of a session renewed since the
event fell due stays at 1 (R69). The arbiter and the session block take it as events of their own (R157): that a block
whose count would end a wait or a lease counts at CLAIM_WAIT_EXPIRY or LAPSE is the model's choice
(notes/assumptions/1.md), as are the mark `renewed` (notes/assumptions/30.md) and that nothing changes when the event is
not due (notes/assumptions/3.md). -/
def Obligations.TimerUnitCounts : Prop :=
  ∀ s : State,
    let ticks := match s.timebase.multiple with | .m8 => 8 | .m32 => 32 | .m128 => 128
    let counts := fun p : Port => s.sessionOpen p ∧ ∀ seq, (s.port p).transport ≠ .executing seq
    let stays := fun p : Port => s.renewed[p] ∧ (s.session p).counter = 1
    let leaseEnds := ∃ p, s.sessionOpen p ∧ ((s.session p).counter = 0 ∨ (counts p ∧ ¬stays p ∧ (s.session p).counter = 1))
    let waitEnds := ∃ k ∈ s.claims, k.wait = some 0 ∨ k.wait = some 1
    (ticks ≤ s.timebase.tickCount → s.flagsDue = false →
      ∃ t, exec .timerUnitEvent s = .next t ∧
        t.timebase = { s.timebase with tickCount := 0, unitCounter := s.timebase.unitCounter + 1 } ∧
        (∀ c, t.chan c =
          if (s.chan c).drive = .holding then { s.chan c with timer := (s.chan c).timer.map fun n => n - 1 }
          else s.chan c) ∧
        (¬leaseEnds → t.leasesDue = false ∧ (∀ q : Port, t.renewed[q] = false) ∧
          ∀ p, (counts p → ¬stays p → t.session p = { s.session p with counter := (s.session p).counter - 1 }) ∧
            (¬counts p ∨ stays p → t.session p = s.session p)) ∧
        (leaseEnds → t.leasesDue ∧ t.sessions = s.sessions ∧ t.renewed = s.renewed) ∧
        (¬waitEnds → t.waitsDue = false ∧ t.claims = s.claims.map fun k => { k with wait := k.wait.map fun n => n - 1 }) ∧
        (waitEnds → t.waitsDue ∧ t.claims = s.claims) ∧
        SameBut [.chans, .sessions, .claims, .timebase, .waitsDue, .leasesDue, .renewed] s t) ∧
    (s.timebase.tickCount < ticks → exec .timerUnitEvent s = .next s)

/-- LAPSE, when the session block's share of a timer-unit event waits: the lease counters of open sessions whose port is
not EXECUTING fall by one (R67), but that of a session renewed since the event fell due stays at 1 (R69); every open
session whose counter is then 0 becomes LAPSED, its claims leave, its channels are freed with their lapse actions, its
context closes; one grant pass for the event; LEASE_LAPSED last in its queue (R48, R68). That the share waits and a
renewed session is marked is the model's choice (notes/assumptions/1.md, 30.md), as is that nothing changes when no
share waits (notes/assumptions/3.md). -/
def Obligations.LapseEndsSessions : Prop :=
  ∀ s : State,
    let counted := fun p : Port =>
      match s.sessionOpen p, (s.port p).transport with
      | true, .ready | true, .answered _ _ =>
        if s.renewed[p] ∧ (s.session p).counter = 1 then 1 else (s.session p).counter - 1
      | true, .executing _ | false, _ => (s.session p).counter
    let due := fun p : Port => s.sessionOpen p = true ∧ counted p = 0
    (s.leasesDue → s.flagsDue = false → s.Sound →
      ∃ t u, exec .lapse s = .next t ∧
        (∀ c p, (s.chan c).own = .owned p → due p →
          u.chan c = (s.chan c).release (s.bankOk c) (s.chan c).config.lapseAction) ∧
        (∀ c, (∀ p, (s.chan c).own = .owned p → ¬due p) → u.chan c = s.chan c) ∧
        (u.claims = s.claims.filter fun k => !(s.sessionOpen k.port && decide (counted k.port = 0))) ∧
        (∀ x, s.cal = some x → due x.port → u.cal = none) ∧
        ((∀ x, s.cal = some x → ¬due x.port) → u.cal = s.cal) ∧
        (∀ p, due p → u.session p = { s.session p with state := .lapsed, counter := 0 }) ∧
        (∀ p, ¬due p → u.session p = { s.session p with counter := counted p }) ∧
        u.leasesDue = false ∧ (∀ q : Port, u.renewed[q] = false) ∧
        SameBut [.chans, .claims, .cal, .sessions, .leasesDue, .renewed] s u ∧
        ((∃ p, due p) →
          (∀ p, due p → t.queue p = appendNote ⟨.leaseLapsed, s.timebase.unitCounter⟩ (s.queue p)) ∧
          (∀ p, ¬due p → t.queue p = u.grantPass.queue p) ∧
          SameBut [.queues] u.grantPass t) ∧
        ((∀ p, ¬due p) → t = u)) ∧
    (s.leasesDue = false → exec .lapse s = .next s)

/-- CLAIM_WAIT_EXPIRY, when the arbiter's share of a timer-unit event waits: every wait falls by one (R45), and every
claim whose wait is then 0 leaves the list, with CLAIM_EXPIRED records in list order and one grant pass (R46). That the
share waits is the model's choice (notes/assumptions/1.md), as is that nothing changes when none does
(notes/assumptions/3.md). -/
def Obligations.ClaimWaitsExpire : Prop :=
  ∀ s : State,
    let counted := s.claims.map fun k => { k with wait := k.wait.map fun n => n - 1 }
    (s.waitsDue → s.flagsDue = false →
      ∃ t u, exec .claimWaitExpiry s = .next t ∧
        u.claims = (counted.filter fun k => decide (k.wait ≠ some 0)) ∧ u.waitsDue = false ∧
        Handed s u ((counted.filter fun k => decide (k.wait = some 0)).map fun k => (k.port, .claimExpired k.tag)) ∧
        SameBut [.claims, .queues, .waitsDue] s u ∧
        ((∃ k ∈ counted, k.wait = some 0) → t = u.grantPass) ∧
        ((∀ k ∈ counted, k.wait ≠ some 0) → t = u)) ∧
    (s.waitsDue = false → exec .claimWaitExpiry s = .next s)

/-- HANDOVER_TIMER_EXPIRY of the lowest channel whose timer has reached 0, with no flag change due: R85, R86, with the
records of R88. -/
def Obligations.HandoverTimerExpires : Prop :=
  ∀ (c : Channel) (s : State),
    let due := fun e : Channel => (s.chan e).drive = .holding ∧ (s.chan e).timer = some 0
    (∀ h, due c → s.flagsDue = false → (s.chan c).held = some h → (∀ e, e < c → ¬due e) →
      ∃ t, exec (.handoverTimerExpiry c) s = .next t ∧
        ((s.chan c).target.isSome → (s.chan c).config.handover = .matching →
          t.chan c = { s.chan c with drive := .ramping, held := none, timer := none } ∧
            Handed s t ((s.chan c).toOwner (.handoverForced c h))) ∧
        ((s.chan c).target.isSome → (s.chan c).config.handover ≠ .matching →
          t.chan c = { s.chan c with timer := none } ∧ t.queues = s.queues) ∧
        ((s.chan c).target = none →
          t.chan c = { s.chan c with timer := none } ∧ Handed s t ((s.chan c).toOwner (.handoverStalled c h))) ∧
        (∀ e, e ≠ c → t.chan e = s.chan e) ∧ SameBut [.chans, .queues] s t) ∧
    (¬due c → exec (.handoverTimerExpiry c) s = .next s)

/-- FIELD_LOSS, due when the count of an OK bank has reached 2 (R114), with no flag change due: R115 on every channel of
the bank, R116 on the context, the records of R117. -/
def Obligations.FieldLossTakesBankOff : Prop :=
  ∀ (b : Bank) (s : State),
    ((s.bank b).field = .ok → 2 ≤ (s.bank b).count → (∀ c, (s.chan c).openLoadCount < 4 ∧ (s.chan c).deviationCount < 3) →
      ∃ t, exec (.fieldLoss b) s = .next t ∧
        t.bank b = ⟨.lost, 0⟩ ∧ (∀ e, e ≠ b → t.bank e = s.bank e) ∧
        (∀ c, t.chan c = if bankOf c = b then (s.chan c).fieldLoss else s.chan c) ∧
        (∀ x, s.cal = some x → bankOf x.channel = b → x.phase ≠ .committing → t.cal = none) ∧
        (∀ x, s.cal = some x → bankOf x.channel ≠ b ∨ x.phase = .committing → t.cal = s.cal) ∧
        (s.cal = none → t.cal = none) ∧
        (∀ p, t.queue p =
          if s.sessionOpen p then
            joined
              ((if ∃ c, bankOf c = b ∧ (s.chan c).own = .owned p then [s.note (.fieldLost b)] else []) ++
                match s.cal with
                | some x =>
                  if bankOf x.channel = b ∧ x.phase ≠ .committing ∧ x.port = p then [s.note (.calAborted x.channel)]
                  else []
                | none => [])
              (s.queue p)
          else s.queue p) ∧
        SameBut [.chans, .banks, .cal, .queues] s t) ∧
    ((s.bank b).field = .lost ∨ (s.bank b).count < 2 → exec (.fieldLoss b) s = .next s)

/-- FIELD_RESTORE, due when the count of a LOST bank has reached 8 (R114), with no flag change due: R106 on every
channel of the bank, the records of R119. -/
def Obligations.FieldRestoreReturnsBank : Prop :=
  ∀ (b : Bank) (s : State),
    ((s.bank b).field = .lost → 8 ≤ (s.bank b).count →
      (∀ c, (s.chan c).openLoadCount < 4 ∧ (s.chan c).deviationCount < 3) →
      ∃ t, exec (.fieldRestore b) s = .next t ∧
        t.bank b = ⟨.ok, 0⟩ ∧ (∀ e, e ≠ b → t.bank e = s.bank e) ∧
        (∀ c, bankOf c ≠ b → t.chan c = s.chan c) ∧
        (∀ c, bankOf c = b →
          (∀ p, (s.chan c).own = .owned p → (s.session p).state = .run → t.chan c = (s.chan c).handover true) ∧
          (∀ p, (s.chan c).own = .owned p → (s.session p).state ≠ .run →
            t.chan c = (s.chan c).force true (s.chan c).config.idleAction) ∧
          ((s.chan c).owner = none → ∀ x, (s.chan c).forced = some x → t.chan c = (s.chan c).force true x.action) ∧
          ((s.chan c).owner = none → (s.chan c).forced = none → t.chan c = (s.chan c).force true .hold)) ∧
        (∀ p, t.queue p =
          if s.sessionOpen p ∧ ∃ c, bankOf c = b ∧ (s.chan c).own = .owned p then
            appendNote (s.note (.fieldRestored b)) (s.queue p)
          else s.queue p) ∧
        SameBut [.chans, .banks, .queues] s t) ∧
    ((s.bank b).field = .ok ∨ (s.bank b).count < 8 → exec (.fieldRestore b) s = .next s)

/-- OPEN_LOAD_FLAG_CHANGE and DEVIATION_FLAG_CHANGE of the first flag due in the order of R113: the flag changes, its
count returns to 0, the owner is told (R122, R124). The change belongs to the tick, and its record to the owner standing
at it (R113, R125): what comes after the monitor's event finds every flag change due taken: requests, frame and CRC
errors, fetches and their ends, the completions of a commit and of the load, the engine's step (R113), the next tick,
the timer-unit event, handover timer expiries, field events, lapses, claim expiries and the edges of MHOLD
(notes/assumptions/2.md). That a flag change that is not due changes nothing is the model's choice
(notes/assumptions/3.md). -/
def Obligations.FlagChangesReported : Prop :=
  (∀ (c : Channel) (s : State), 4 ≤ (s.chan c).openLoadCount →
    (∀ e, e < c → (s.chan e).openLoadCount < 4 ∧ (s.chan e).deviationCount < 3) →
    ∃ t, exec (.openLoadFlagChange c) s = .next t ∧
      t.chan c = { s.chan c with openLoad := !(s.chan c).openLoad, openLoadCount := 0 } ∧
      (∀ e, e ≠ c → t.chan e = s.chan e) ∧
      Handed s t ((s.chan c).toOwner (.openLoad c !(s.chan c).openLoad)) ∧ SameBut [.chans, .queues] s t) ∧
  (∀ (c : Channel) (s : State), 3 ≤ (s.chan c).deviationCount → (s.chan c).openLoadCount < 4 →
    (∀ e, e < c → (s.chan e).openLoadCount < 4 ∧ (s.chan e).deviationCount < 3) →
    ∃ t, exec (.deviationFlagChange c) s = .next t ∧
      t.chan c = { s.chan c with deviation := !(s.chan c).deviation, deviationCount := 0 } ∧
      (∀ e, e ≠ c → t.chan e = s.chan e) ∧
      Handed s t ((s.chan c).toOwner (.deviation c !(s.chan c).deviation)) ∧ SameBut [.chans, .queues] s t) ∧
  (∀ (c : Channel) (s : State),
    ((s.chan c).openLoadCount < 4 → exec (.openLoadFlagChange c) s = .next s) ∧
      ((s.chan c).deviationCount < 3 → exec (.deviationFlagChange c) s = .next s)) ∧
  ∀ s u : State, FlagsTaken s u →
    (∀ i r, requestOf i = some r → exec i s = exec i u) ∧
      (∀ p received, (Instr.frameError p received).wellFormed →
        exec (.frameError p received) s = exec (.frameError p received) u) ∧
      (∀ p kind f, (Instr.crcErrorFrame p kind f).wellFormed →
        exec (.crcErrorFrame p kind f) s = exec (.crcErrorFrame p kind f) u) ∧
      (∀ p, exec (.fetch p) s = exec (.fetch p) u) ∧
      (∀ p, exec (.responseClockedOut p) s = exec (.responseClockedOut p) u) ∧
      (s.starting → s.resetAsserted = false → exec .startUpLoadCompletion s = exec .startUpLoadCompletion u) ∧
      (∀ verified, exec (.commitCompletion verified) s = exec (.commitCompletion verified) u) ∧
      (∀ b, (s.bank b).lossDue → exec (.fieldLoss b) s = exec (.fieldLoss b) u) ∧
      (∀ b, (s.bank b).restoreDue → exec (.fieldRestore b) s = exec (.fieldRestore b) u) ∧
      (s.waitsDue → exec .claimWaitExpiry s = exec .claimWaitExpiry u) ∧
      (s.leasesDue → exec .lapse s = exec .lapse u) ∧
      (s.unitDue → exec .timerUnitEvent s = exec .timerUnitEvent u) ∧
      (∀ c, (s.chan c).timerDue → exec (.handoverTimerExpiry c) s = exec (.handoverTimerExpiry c) u) ∧
      (s.ticking → ∀ field loop order, (order = .stepNow → s.stepDue) →
        exec (.updateTick field loop order) s = exec (.updateTick field loop order) u) ∧
      (s.resetAsserted = false → s.timebase.hold = .released → exec .holdAssertion s = exec .holdAssertion u) ∧
      (s.resetAsserted = false → s.timebase.hold = .asserted → exec .holdRelease s = exec .holdRelease u)

/-! ## Rules of the whole part -/

/-- A request answered with a result other than OK, GRANTED or QUEUED leaves the part as it was but for its port (the
scope file, "Results"); any request reaches the session and the port of its own port alone (R52). A request frame ends
what its port still held of a fetch: that is the model's choice (notes/assumptions/15.md). Flag changes that are due
belong to the tick before the request (notes/assumptions/2.md), so the first clause is of states with none due. -/
def Obligations.RequestsStayInBounds : Prop :=
  (∀ (i : Instr) (r : Request) (s t : State) (response : Response) (replay : Bool), requestOf i = some r →
    s.flagsDue = false → exec i s = .next t → (t.port r.port).transport = .answered response replay →
    response.result ∉ [Result.ok, .granted, .queued] → SameBut [.ports] s t) ∧
  ∀ (i : Instr) (r : Request) (s t : State), requestOf i = some r → exec i s = .next t →
    (t.port r.port).sending = none ∧ ∀ q, q ≠ r.port → t.session q = s.session q ∧ t.port q = s.port q

/-- The configuration record of a channel is changed by RESET and by an accepted CONFIGURE of the channel, and by these
alone (R6). -/
def Obligations.ConfigurationChangesOnlyByConfigure : Prop :=
  ∀ (i : Instr) (s t : State) (c : Channel), exec i s = .next t → (t.chan c).config ≠ (s.chan c).config →
    (∃ done, i = .reset done) ∨
      ∃ p f, i = .configure p f ∧
        (t.port p).transport = .answered ⟨kindConfigure, f.seq, .ok, false, .configured c⟩ false

/-! ## Invariants -/

/-- Every step keeps the queues within 16 records, a full one ending in an OVERFLOW record (R127, R128). -/
def Obligations.QueuesStayBounded : Prop :=
  ∀ s t : State, s.QueuesBounded → step s = .next t → t.QueuesBounded

/-- Every step keeps the pending list ordered and within eight, its claims and every owner with an open session, a channel
RESERVED exactly when the head wants it, and the claims of one port disjoint (R7, R22 to R26). -/
def Obligations.ArbiterStaysConsistent : Prop :=
  ∀ s t : State, s.Arbitrated → step s = .next t → t.Arbitrated

/-- Every step keeps the drive of the channels in agreement with ownership, sessions, banks and the calibration context
(R9, R53, R73, R75, R103, R139); the context in agreement with its corrections and with the port that is EXECUTING in
COMMITTING, and no other is (R139, R148, R164); the lease counter of an open session between 1 and its lease period
(R52, R66, R68); and no session marked as renewed when no timer-unit event waits (the model's own field,
notes/assumptions/30.md). -/
def Obligations.DriveStaysSound : Prop :=
  ∀ s t : State, s.Sound → step s = .next t → t.Sound

/-- Every step keeps every value of a channel within the limits of its range (R3, R73), in states whose drive is sound. -/
def Obligations.ValuesStayWithinRange : Prop :=
  ∀ s t : State, s.Sound → s.ValuesWithin → step s = .next t → t.ValuesWithin

/-- The state right after RESET meets the four invariants. -/
def Obligations.ResetMeetsInvariants : Prop :=
  State.reset.QueuesBounded ∧ State.reset.Arbitrated ∧ State.reset.Sound ∧ State.reset.ValuesWithin
end

