-- ==== Sys2Proof/Laws/State.lean ====
section
/-! SUPPORT. One lemma for each part of the state under each update: what it holds after the update, or that the update leaves it alone. -/

namespace Sys2Proof.Machine

variable (s : State)

/-! ## The part an update changes -/

@[simp] theorem chan_mapChans (f : Channel → Chan → Chan) (c : Channel) : (s.mapChans f).chan c = f c (s.chan c) := by
  simp [State.mapChans, State.chan]

@[simp] theorem chan_modChan (c₀ : Channel) (f : Chan → Chan) (c : Channel) :
    (s.modChan c₀ f).chan c = if c₀ = c then f (s.chan c₀) else s.chan c := by
  simp [State.modChan, State.chan, Vector.getElem_set, Fin.ext_iff]

@[simp] theorem session_mapSessions (f : Port → Session → Session) (p : Port) :
    (s.mapSessions f).session p = f p (s.session p) := by
  simp [State.mapSessions, State.session]

@[simp] theorem session_modSession (p₀ : Port) (f : Session → Session) (p : Port) :
    (s.modSession p₀ f).session p = if p₀ = p then f (s.session p₀) else s.session p := by
  simp [State.modSession, State.session, Vector.getElem_set, Fin.ext_iff]

@[simp] theorem bank_mapBanks (f : Bank → BankState → BankState) (b : Bank) :
    (s.mapBanks f).bank b = f b (s.bank b) := by
  simp [State.mapBanks, State.bank]

@[simp] theorem bank_modBank (b₀ : Bank) (f : BankState → BankState) (b : Bank) :
    (s.modBank b₀ f).bank b = if b₀ = b then f (s.bank b₀) else s.bank b := by
  simp [State.modBank, State.bank, Vector.getElem_set, Fin.ext_iff]

@[simp] theorem queue_modQueue (p₀ : Port) (f : List Note → List Note) (p : Port) :
    (s.modQueue p₀ f).queue p = if p₀ = p then f (s.queue p₀) else s.queue p := by
  simp [State.modQueue, State.queue, Vector.getElem_set, Fin.ext_iff]

@[simp] theorem port_modPort (p₀ : Port) (f : PortState → PortState) (p : Port) :
    (s.modPort p₀ f).port p = if p₀ = p then f (s.port p₀) else s.port p := by
  simp [State.modPort, State.port, Vector.getElem_set, Fin.ext_iff]

theorem place_injective {d e : DriveRange} (h : d.place = e.place) : d = e := by
  cases d <;> cases e <;> simp [DriveRange.place] at h ⊢

@[simp] theorem place_inj {d e : DriveRange} : d.place = e.place ↔ d = e :=
  ⟨place_injective, fun h => h ▸ rfl⟩

@[simp] theorem rangeAt_place (d : DriveRange) : rangeAt d.place = d := by cases d <;> rfl

@[simp] theorem cell_modCell (c₀ : Channel) (d₀ : DriveRange) (f : Cell → Cell) (c : Channel) (d : DriveRange) :
    (s.modCell c₀ d₀ f).cell c d = if c₀ = c ∧ d₀ = d then f (s.cell c₀ d₀) else s.cell c d := by
  by_cases hc : c₀ = c
  · subst hc
    by_cases hd : d₀ = d
    · subst hd
      simp [State.modCell, State.cell]
    · have hp : (d₀.place : Fin 4).val ≠ d.place.val := fun h => hd (place_injective (Fin.ext h))
      simp [State.modCell, State.cell, hp, hd]
  · have hp : c₀.val ≠ c.val := fun h => hc (Fin.ext h)
    simp [State.modCell, State.cell, hp, hc]

/-! ## Two states agree in a part when they agree in each of its places -/

theorem chans_ext {s t : State} (h : ∀ c, s.chan c = t.chan c) : s.chans = t.chans := by
  apply Vector.ext
  intro i hi
  exact h ⟨i, hi⟩

theorem sessions_ext {s t : State} (h : ∀ p, s.session p = t.session p) : s.sessions = t.sessions := by
  apply Vector.ext
  intro i hi
  exact h ⟨i, hi⟩

theorem queues_ext {s t : State} (h : ∀ p, s.queue p = t.queue p) : s.queues = t.queues := by
  apply Vector.ext
  intro i hi
  exact h ⟨i, hi⟩

theorem ports_ext {s t : State} (h : ∀ p, s.port p = t.port p) : s.ports = t.ports := by
  apply Vector.ext
  intro i hi
  exact h ⟨i, hi⟩

theorem banks_ext {s t : State} (h : ∀ b, s.bank b = t.bank b) : s.banks = t.banks := by
  apply Vector.ext
  intro i hi
  exact h ⟨i, hi⟩

/-! ## What `mapChans` leaves alone -/

@[simp] theorem claims_mapChans (f : Channel → Chan → Chan) : (s.mapChans f).claims = s.claims := rfl
@[simp] theorem arrivals_mapChans (f : Channel → Chan → Chan) : (s.mapChans f).arrivals = s.arrivals := rfl
@[simp] theorem sessions_mapChans (f : Channel → Chan → Chan) : (s.mapChans f).sessions = s.sessions := rfl
@[simp] theorem epochCounter_mapChans (f : Channel → Chan → Chan) : (s.mapChans f).epochCounter = s.epochCounter := rfl
@[simp] theorem ceilings_mapChans (f : Channel → Chan → Chan) : (s.mapChans f).ceilings = s.ceilings := rfl
@[simp] theorem banks_mapChans (f : Channel → Chan → Chan) : (s.mapChans f).banks = s.banks := rfl
@[simp] theorem cal_mapChans (f : Channel → Chan → Chan) : (s.mapChans f).cal = s.cal := rfl
@[simp] theorem store_mapChans (f : Channel → Chan → Chan) : (s.mapChans f).store = s.store := rfl
@[simp] theorem timebase_mapChans (f : Channel → Chan → Chan) : (s.mapChans f).timebase = s.timebase := rfl
@[simp] theorem queues_mapChans (f : Channel → Chan → Chan) : (s.mapChans f).queues = s.queues := rfl
@[simp] theorem ports_mapChans (f : Channel → Chan → Chan) : (s.mapChans f).ports = s.ports := rfl
@[simp] theorem starting_mapChans (f : Channel → Chan → Chan) : (s.mapChans f).starting = s.starting := rfl
@[simp] theorem resetAsserted_mapChans (f : Channel → Chan → Chan) : (s.mapChans f).resetAsserted = s.resetAsserted := rfl
@[simp] theorem stepDue_mapChans (f : Channel → Chan → Chan) : (s.mapChans f).stepDue = s.stepDue := rfl
@[simp] theorem waitsDue_mapChans (f : Channel → Chan → Chan) : (s.mapChans f).waitsDue = s.waitsDue := rfl
@[simp] theorem leasesDue_mapChans (f : Channel → Chan → Chan) : (s.mapChans f).leasesDue = s.leasesDue := rfl
@[simp] theorem renewed_mapChans (f : Channel → Chan → Chan) : (s.mapChans f).renewed = s.renewed := rfl
@[simp] theorem pending_mapChans (f : Channel → Chan → Chan) : (s.mapChans f).pending = s.pending := rfl
@[simp] theorem session_mapChans (f : Channel → Chan → Chan) (p : Port) : (s.mapChans f).session p = s.session p := rfl
@[simp] theorem bank_mapChans (f : Channel → Chan → Chan) (b : Bank) : (s.mapChans f).bank b = s.bank b := rfl
@[simp] theorem queue_mapChans (f : Channel → Chan → Chan) (p : Port) : (s.mapChans f).queue p = s.queue p := rfl
@[simp] theorem port_mapChans (f : Channel → Chan → Chan) (p : Port) : (s.mapChans f).port p = s.port p := rfl
@[simp] theorem ceiling_mapChans (f : Channel → Chan → Chan) (p : Port) : (s.mapChans f).ceiling p = s.ceiling p := rfl
@[simp] theorem cell_mapChans (f : Channel → Chan → Chan) (c : Channel) (d : DriveRange) : (s.mapChans f).cell c d = s.cell c d := rfl
@[simp] theorem bankOk_mapChans (f : Channel → Chan → Chan) (c : Channel) : (s.mapChans f).bankOk c = s.bankOk c := rfl
@[simp] theorem sessionOpen_mapChans (f : Channel → Chan → Chan) (p : Port) : (s.mapChans f).sessionOpen p = s.sessionOpen p := rfl
@[simp] theorem running_mapChans (f : Channel → Chan → Chan) (p : Port) : (s.mapChans f).running p = s.running p := rfl
@[simp] theorem calNames_mapChans (f : Channel → Chan → Chan) (c : Channel) : (s.mapChans f).calNames c = s.calNames c := rfl
@[simp] theorem holdsCal_mapChans (f : Channel → Chan → Chan) (p : Port) : (s.mapChans f).holdsCal p = s.holdsCal p := rfl
@[simp] theorem ownsClaim_mapChans (f : Channel → Chan → Chan) (p : Port) (k : Claim) : (s.mapChans f).ownsClaim p k = s.ownsClaim p k := rfl
@[simp] theorem note_mapChans (f : Channel → Chan → Chan) (b : NoteBody) : (s.mapChans f).note b = s.note b := rfl
@[simp] theorem reservedByHead_mapChans (f : Channel → Chan → Chan) (c : Channel) : (s.mapChans f).reservedByHead c = s.reservedByHead c := rfl
@[simp] theorem calValue_mapChans (f : Channel → Chan → Chan) (c : Channel) : (s.mapChans f).calValue c = s.calValue c := rfl

/-! ## What `modChan` leaves alone -/

@[simp] theorem claims_modChan (c₀ : Channel) (f : Chan → Chan) : (s.modChan c₀ f).claims = s.claims := rfl
@[simp] theorem arrivals_modChan (c₀ : Channel) (f : Chan → Chan) : (s.modChan c₀ f).arrivals = s.arrivals := rfl
@[simp] theorem sessions_modChan (c₀ : Channel) (f : Chan → Chan) : (s.modChan c₀ f).sessions = s.sessions := rfl
@[simp] theorem epochCounter_modChan (c₀ : Channel) (f : Chan → Chan) : (s.modChan c₀ f).epochCounter = s.epochCounter := rfl
@[simp] theorem ceilings_modChan (c₀ : Channel) (f : Chan → Chan) : (s.modChan c₀ f).ceilings = s.ceilings := rfl
@[simp] theorem banks_modChan (c₀ : Channel) (f : Chan → Chan) : (s.modChan c₀ f).banks = s.banks := rfl
@[simp] theorem cal_modChan (c₀ : Channel) (f : Chan → Chan) : (s.modChan c₀ f).cal = s.cal := rfl
@[simp] theorem store_modChan (c₀ : Channel) (f : Chan → Chan) : (s.modChan c₀ f).store = s.store := rfl
@[simp] theorem timebase_modChan (c₀ : Channel) (f : Chan → Chan) : (s.modChan c₀ f).timebase = s.timebase := rfl
@[simp] theorem queues_modChan (c₀ : Channel) (f : Chan → Chan) : (s.modChan c₀ f).queues = s.queues := rfl
@[simp] theorem ports_modChan (c₀ : Channel) (f : Chan → Chan) : (s.modChan c₀ f).ports = s.ports := rfl
@[simp] theorem starting_modChan (c₀ : Channel) (f : Chan → Chan) : (s.modChan c₀ f).starting = s.starting := rfl
@[simp] theorem resetAsserted_modChan (c₀ : Channel) (f : Chan → Chan) : (s.modChan c₀ f).resetAsserted = s.resetAsserted := rfl
@[simp] theorem stepDue_modChan (c₀ : Channel) (f : Chan → Chan) : (s.modChan c₀ f).stepDue = s.stepDue := rfl
@[simp] theorem waitsDue_modChan (c₀ : Channel) (f : Chan → Chan) : (s.modChan c₀ f).waitsDue = s.waitsDue := rfl
@[simp] theorem leasesDue_modChan (c₀ : Channel) (f : Chan → Chan) : (s.modChan c₀ f).leasesDue = s.leasesDue := rfl
@[simp] theorem renewed_modChan (c₀ : Channel) (f : Chan → Chan) : (s.modChan c₀ f).renewed = s.renewed := rfl
@[simp] theorem pending_modChan (c₀ : Channel) (f : Chan → Chan) : (s.modChan c₀ f).pending = s.pending := rfl
@[simp] theorem session_modChan (c₀ : Channel) (f : Chan → Chan) (p : Port) : (s.modChan c₀ f).session p = s.session p := rfl
@[simp] theorem bank_modChan (c₀ : Channel) (f : Chan → Chan) (b : Bank) : (s.modChan c₀ f).bank b = s.bank b := rfl
@[simp] theorem queue_modChan (c₀ : Channel) (f : Chan → Chan) (p : Port) : (s.modChan c₀ f).queue p = s.queue p := rfl
@[simp] theorem port_modChan (c₀ : Channel) (f : Chan → Chan) (p : Port) : (s.modChan c₀ f).port p = s.port p := rfl
@[simp] theorem ceiling_modChan (c₀ : Channel) (f : Chan → Chan) (p : Port) : (s.modChan c₀ f).ceiling p = s.ceiling p := rfl
@[simp] theorem cell_modChan (c₀ : Channel) (f : Chan → Chan) (c : Channel) (d : DriveRange) : (s.modChan c₀ f).cell c d = s.cell c d := rfl
@[simp] theorem bankOk_modChan (c₀ : Channel) (f : Chan → Chan) (c : Channel) : (s.modChan c₀ f).bankOk c = s.bankOk c := rfl
@[simp] theorem sessionOpen_modChan (c₀ : Channel) (f : Chan → Chan) (p : Port) : (s.modChan c₀ f).sessionOpen p = s.sessionOpen p := rfl
@[simp] theorem running_modChan (c₀ : Channel) (f : Chan → Chan) (p : Port) : (s.modChan c₀ f).running p = s.running p := rfl
@[simp] theorem calNames_modChan (c₀ : Channel) (f : Chan → Chan) (c : Channel) : (s.modChan c₀ f).calNames c = s.calNames c := rfl
@[simp] theorem holdsCal_modChan (c₀ : Channel) (f : Chan → Chan) (p : Port) : (s.modChan c₀ f).holdsCal p = s.holdsCal p := rfl
@[simp] theorem ownsClaim_modChan (c₀ : Channel) (f : Chan → Chan) (p : Port) (k : Claim) : (s.modChan c₀ f).ownsClaim p k = s.ownsClaim p k := rfl
@[simp] theorem note_modChan (c₀ : Channel) (f : Chan → Chan) (b : NoteBody) : (s.modChan c₀ f).note b = s.note b := rfl
@[simp] theorem reservedByHead_modChan (c₀ : Channel) (f : Chan → Chan) (c : Channel) : (s.modChan c₀ f).reservedByHead c = s.reservedByHead c := rfl
@[simp] theorem calValue_modChan (c₀ : Channel) (f : Chan → Chan) (c : Channel) : (s.modChan c₀ f).calValue c = s.calValue c := rfl

/-! ## What `mapSessions` leaves alone -/

@[simp] theorem chans_mapSessions (f : Port → Session → Session) : (s.mapSessions f).chans = s.chans := rfl
@[simp] theorem claims_mapSessions (f : Port → Session → Session) : (s.mapSessions f).claims = s.claims := rfl
@[simp] theorem arrivals_mapSessions (f : Port → Session → Session) : (s.mapSessions f).arrivals = s.arrivals := rfl
@[simp] theorem epochCounter_mapSessions (f : Port → Session → Session) : (s.mapSessions f).epochCounter = s.epochCounter := rfl
@[simp] theorem ceilings_mapSessions (f : Port → Session → Session) : (s.mapSessions f).ceilings = s.ceilings := rfl
@[simp] theorem banks_mapSessions (f : Port → Session → Session) : (s.mapSessions f).banks = s.banks := rfl
@[simp] theorem cal_mapSessions (f : Port → Session → Session) : (s.mapSessions f).cal = s.cal := rfl
@[simp] theorem store_mapSessions (f : Port → Session → Session) : (s.mapSessions f).store = s.store := rfl
@[simp] theorem timebase_mapSessions (f : Port → Session → Session) : (s.mapSessions f).timebase = s.timebase := rfl
@[simp] theorem queues_mapSessions (f : Port → Session → Session) : (s.mapSessions f).queues = s.queues := rfl
@[simp] theorem ports_mapSessions (f : Port → Session → Session) : (s.mapSessions f).ports = s.ports := rfl
@[simp] theorem starting_mapSessions (f : Port → Session → Session) : (s.mapSessions f).starting = s.starting := rfl
@[simp] theorem resetAsserted_mapSessions (f : Port → Session → Session) : (s.mapSessions f).resetAsserted = s.resetAsserted := rfl
@[simp] theorem stepDue_mapSessions (f : Port → Session → Session) : (s.mapSessions f).stepDue = s.stepDue := rfl
@[simp] theorem waitsDue_mapSessions (f : Port → Session → Session) : (s.mapSessions f).waitsDue = s.waitsDue := rfl
@[simp] theorem leasesDue_mapSessions (f : Port → Session → Session) : (s.mapSessions f).leasesDue = s.leasesDue := rfl
@[simp] theorem renewed_mapSessions (f : Port → Session → Session) : (s.mapSessions f).renewed = s.renewed := rfl
@[simp] theorem pending_mapSessions (f : Port → Session → Session) : (s.mapSessions f).pending = s.pending := rfl
@[simp] theorem chan_mapSessions (f : Port → Session → Session) (c : Channel) : (s.mapSessions f).chan c = s.chan c := rfl
@[simp] theorem bank_mapSessions (f : Port → Session → Session) (b : Bank) : (s.mapSessions f).bank b = s.bank b := rfl
@[simp] theorem queue_mapSessions (f : Port → Session → Session) (p : Port) : (s.mapSessions f).queue p = s.queue p := rfl
@[simp] theorem port_mapSessions (f : Port → Session → Session) (p : Port) : (s.mapSessions f).port p = s.port p := rfl
@[simp] theorem ceiling_mapSessions (f : Port → Session → Session) (p : Port) : (s.mapSessions f).ceiling p = s.ceiling p := rfl
@[simp] theorem cell_mapSessions (f : Port → Session → Session) (c : Channel) (d : DriveRange) : (s.mapSessions f).cell c d = s.cell c d := rfl
@[simp] theorem bankOk_mapSessions (f : Port → Session → Session) (c : Channel) : (s.mapSessions f).bankOk c = s.bankOk c := rfl
@[simp] theorem calNames_mapSessions (f : Port → Session → Session) (c : Channel) : (s.mapSessions f).calNames c = s.calNames c := rfl
@[simp] theorem note_mapSessions (f : Port → Session → Session) (b : NoteBody) : (s.mapSessions f).note b = s.note b := rfl
@[simp] theorem reservedByHead_mapSessions (f : Port → Session → Session) (c : Channel) : (s.mapSessions f).reservedByHead c = s.reservedByHead c := rfl
@[simp] theorem calValue_mapSessions (f : Port → Session → Session) (c : Channel) : (s.mapSessions f).calValue c = s.calValue c := rfl

/-! ## What `modSession` leaves alone -/

@[simp] theorem chans_modSession (p₀ : Port) (f : Session → Session) : (s.modSession p₀ f).chans = s.chans := rfl
@[simp] theorem claims_modSession (p₀ : Port) (f : Session → Session) : (s.modSession p₀ f).claims = s.claims := rfl
@[simp] theorem arrivals_modSession (p₀ : Port) (f : Session → Session) : (s.modSession p₀ f).arrivals = s.arrivals := rfl
@[simp] theorem epochCounter_modSession (p₀ : Port) (f : Session → Session) : (s.modSession p₀ f).epochCounter = s.epochCounter := rfl
@[simp] theorem ceilings_modSession (p₀ : Port) (f : Session → Session) : (s.modSession p₀ f).ceilings = s.ceilings := rfl
@[simp] theorem banks_modSession (p₀ : Port) (f : Session → Session) : (s.modSession p₀ f).banks = s.banks := rfl
@[simp] theorem cal_modSession (p₀ : Port) (f : Session → Session) : (s.modSession p₀ f).cal = s.cal := rfl
@[simp] theorem store_modSession (p₀ : Port) (f : Session → Session) : (s.modSession p₀ f).store = s.store := rfl
@[simp] theorem timebase_modSession (p₀ : Port) (f : Session → Session) : (s.modSession p₀ f).timebase = s.timebase := rfl
@[simp] theorem queues_modSession (p₀ : Port) (f : Session → Session) : (s.modSession p₀ f).queues = s.queues := rfl
@[simp] theorem ports_modSession (p₀ : Port) (f : Session → Session) : (s.modSession p₀ f).ports = s.ports := rfl
@[simp] theorem starting_modSession (p₀ : Port) (f : Session → Session) : (s.modSession p₀ f).starting = s.starting := rfl
@[simp] theorem resetAsserted_modSession (p₀ : Port) (f : Session → Session) : (s.modSession p₀ f).resetAsserted = s.resetAsserted := rfl
@[simp] theorem stepDue_modSession (p₀ : Port) (f : Session → Session) : (s.modSession p₀ f).stepDue = s.stepDue := rfl
@[simp] theorem waitsDue_modSession (p₀ : Port) (f : Session → Session) : (s.modSession p₀ f).waitsDue = s.waitsDue := rfl
@[simp] theorem leasesDue_modSession (p₀ : Port) (f : Session → Session) : (s.modSession p₀ f).leasesDue = s.leasesDue := rfl
@[simp] theorem renewed_modSession (p₀ : Port) (f : Session → Session) : (s.modSession p₀ f).renewed = s.renewed := rfl
@[simp] theorem pending_modSession (p₀ : Port) (f : Session → Session) : (s.modSession p₀ f).pending = s.pending := rfl
@[simp] theorem chan_modSession (p₀ : Port) (f : Session → Session) (c : Channel) : (s.modSession p₀ f).chan c = s.chan c := rfl
@[simp] theorem bank_modSession (p₀ : Port) (f : Session → Session) (b : Bank) : (s.modSession p₀ f).bank b = s.bank b := rfl
@[simp] theorem queue_modSession (p₀ : Port) (f : Session → Session) (p : Port) : (s.modSession p₀ f).queue p = s.queue p := rfl
@[simp] theorem port_modSession (p₀ : Port) (f : Session → Session) (p : Port) : (s.modSession p₀ f).port p = s.port p := rfl
@[simp] theorem ceiling_modSession (p₀ : Port) (f : Session → Session) (p : Port) : (s.modSession p₀ f).ceiling p = s.ceiling p := rfl
@[simp] theorem cell_modSession (p₀ : Port) (f : Session → Session) (c : Channel) (d : DriveRange) : (s.modSession p₀ f).cell c d = s.cell c d := rfl
@[simp] theorem bankOk_modSession (p₀ : Port) (f : Session → Session) (c : Channel) : (s.modSession p₀ f).bankOk c = s.bankOk c := rfl
@[simp] theorem calNames_modSession (p₀ : Port) (f : Session → Session) (c : Channel) : (s.modSession p₀ f).calNames c = s.calNames c := rfl
@[simp] theorem note_modSession (p₀ : Port) (f : Session → Session) (b : NoteBody) : (s.modSession p₀ f).note b = s.note b := rfl
@[simp] theorem reservedByHead_modSession (p₀ : Port) (f : Session → Session) (c : Channel) : (s.modSession p₀ f).reservedByHead c = s.reservedByHead c := rfl
@[simp] theorem calValue_modSession (p₀ : Port) (f : Session → Session) (c : Channel) : (s.modSession p₀ f).calValue c = s.calValue c := rfl

/-! ## What `mapBanks` leaves alone -/

@[simp] theorem chans_mapBanks (f : Bank → BankState → BankState) : (s.mapBanks f).chans = s.chans := rfl
@[simp] theorem claims_mapBanks (f : Bank → BankState → BankState) : (s.mapBanks f).claims = s.claims := rfl
@[simp] theorem arrivals_mapBanks (f : Bank → BankState → BankState) : (s.mapBanks f).arrivals = s.arrivals := rfl
@[simp] theorem sessions_mapBanks (f : Bank → BankState → BankState) : (s.mapBanks f).sessions = s.sessions := rfl
@[simp] theorem epochCounter_mapBanks (f : Bank → BankState → BankState) : (s.mapBanks f).epochCounter = s.epochCounter := rfl
@[simp] theorem ceilings_mapBanks (f : Bank → BankState → BankState) : (s.mapBanks f).ceilings = s.ceilings := rfl
@[simp] theorem cal_mapBanks (f : Bank → BankState → BankState) : (s.mapBanks f).cal = s.cal := rfl
@[simp] theorem store_mapBanks (f : Bank → BankState → BankState) : (s.mapBanks f).store = s.store := rfl
@[simp] theorem timebase_mapBanks (f : Bank → BankState → BankState) : (s.mapBanks f).timebase = s.timebase := rfl
@[simp] theorem queues_mapBanks (f : Bank → BankState → BankState) : (s.mapBanks f).queues = s.queues := rfl
@[simp] theorem ports_mapBanks (f : Bank → BankState → BankState) : (s.mapBanks f).ports = s.ports := rfl
@[simp] theorem starting_mapBanks (f : Bank → BankState → BankState) : (s.mapBanks f).starting = s.starting := rfl
@[simp] theorem resetAsserted_mapBanks (f : Bank → BankState → BankState) : (s.mapBanks f).resetAsserted = s.resetAsserted := rfl
@[simp] theorem stepDue_mapBanks (f : Bank → BankState → BankState) : (s.mapBanks f).stepDue = s.stepDue := rfl
@[simp] theorem waitsDue_mapBanks (f : Bank → BankState → BankState) : (s.mapBanks f).waitsDue = s.waitsDue := rfl
@[simp] theorem leasesDue_mapBanks (f : Bank → BankState → BankState) : (s.mapBanks f).leasesDue = s.leasesDue := rfl
@[simp] theorem renewed_mapBanks (f : Bank → BankState → BankState) : (s.mapBanks f).renewed = s.renewed := rfl
@[simp] theorem pending_mapBanks (f : Bank → BankState → BankState) : (s.mapBanks f).pending = s.pending := rfl
@[simp] theorem chan_mapBanks (f : Bank → BankState → BankState) (c : Channel) : (s.mapBanks f).chan c = s.chan c := rfl
@[simp] theorem session_mapBanks (f : Bank → BankState → BankState) (p : Port) : (s.mapBanks f).session p = s.session p := rfl
@[simp] theorem queue_mapBanks (f : Bank → BankState → BankState) (p : Port) : (s.mapBanks f).queue p = s.queue p := rfl
@[simp] theorem port_mapBanks (f : Bank → BankState → BankState) (p : Port) : (s.mapBanks f).port p = s.port p := rfl
@[simp] theorem ceiling_mapBanks (f : Bank → BankState → BankState) (p : Port) : (s.mapBanks f).ceiling p = s.ceiling p := rfl
@[simp] theorem cell_mapBanks (f : Bank → BankState → BankState) (c : Channel) (d : DriveRange) : (s.mapBanks f).cell c d = s.cell c d := rfl
@[simp] theorem sessionOpen_mapBanks (f : Bank → BankState → BankState) (p : Port) : (s.mapBanks f).sessionOpen p = s.sessionOpen p := rfl
@[simp] theorem running_mapBanks (f : Bank → BankState → BankState) (p : Port) : (s.mapBanks f).running p = s.running p := rfl
@[simp] theorem calNames_mapBanks (f : Bank → BankState → BankState) (c : Channel) : (s.mapBanks f).calNames c = s.calNames c := rfl
@[simp] theorem holdsCal_mapBanks (f : Bank → BankState → BankState) (p : Port) : (s.mapBanks f).holdsCal p = s.holdsCal p := rfl
@[simp] theorem ownsClaim_mapBanks (f : Bank → BankState → BankState) (p : Port) (k : Claim) : (s.mapBanks f).ownsClaim p k = s.ownsClaim p k := rfl
@[simp] theorem note_mapBanks (f : Bank → BankState → BankState) (b : NoteBody) : (s.mapBanks f).note b = s.note b := rfl
@[simp] theorem reservedByHead_mapBanks (f : Bank → BankState → BankState) (c : Channel) : (s.mapBanks f).reservedByHead c = s.reservedByHead c := rfl
@[simp] theorem calValue_mapBanks (f : Bank → BankState → BankState) (c : Channel) : (s.mapBanks f).calValue c = s.calValue c := rfl

/-! ## What `modBank` leaves alone -/

@[simp] theorem chans_modBank (b₀ : Bank) (f : BankState → BankState) : (s.modBank b₀ f).chans = s.chans := rfl
@[simp] theorem claims_modBank (b₀ : Bank) (f : BankState → BankState) : (s.modBank b₀ f).claims = s.claims := rfl
@[simp] theorem arrivals_modBank (b₀ : Bank) (f : BankState → BankState) : (s.modBank b₀ f).arrivals = s.arrivals := rfl
@[simp] theorem sessions_modBank (b₀ : Bank) (f : BankState → BankState) : (s.modBank b₀ f).sessions = s.sessions := rfl
@[simp] theorem epochCounter_modBank (b₀ : Bank) (f : BankState → BankState) : (s.modBank b₀ f).epochCounter = s.epochCounter := rfl
@[simp] theorem ceilings_modBank (b₀ : Bank) (f : BankState → BankState) : (s.modBank b₀ f).ceilings = s.ceilings := rfl
@[simp] theorem cal_modBank (b₀ : Bank) (f : BankState → BankState) : (s.modBank b₀ f).cal = s.cal := rfl
@[simp] theorem store_modBank (b₀ : Bank) (f : BankState → BankState) : (s.modBank b₀ f).store = s.store := rfl
@[simp] theorem timebase_modBank (b₀ : Bank) (f : BankState → BankState) : (s.modBank b₀ f).timebase = s.timebase := rfl
@[simp] theorem queues_modBank (b₀ : Bank) (f : BankState → BankState) : (s.modBank b₀ f).queues = s.queues := rfl
@[simp] theorem ports_modBank (b₀ : Bank) (f : BankState → BankState) : (s.modBank b₀ f).ports = s.ports := rfl
@[simp] theorem starting_modBank (b₀ : Bank) (f : BankState → BankState) : (s.modBank b₀ f).starting = s.starting := rfl
@[simp] theorem resetAsserted_modBank (b₀ : Bank) (f : BankState → BankState) : (s.modBank b₀ f).resetAsserted = s.resetAsserted := rfl
@[simp] theorem stepDue_modBank (b₀ : Bank) (f : BankState → BankState) : (s.modBank b₀ f).stepDue = s.stepDue := rfl
@[simp] theorem waitsDue_modBank (b₀ : Bank) (f : BankState → BankState) : (s.modBank b₀ f).waitsDue = s.waitsDue := rfl
@[simp] theorem leasesDue_modBank (b₀ : Bank) (f : BankState → BankState) : (s.modBank b₀ f).leasesDue = s.leasesDue := rfl
@[simp] theorem renewed_modBank (b₀ : Bank) (f : BankState → BankState) : (s.modBank b₀ f).renewed = s.renewed := rfl
@[simp] theorem pending_modBank (b₀ : Bank) (f : BankState → BankState) : (s.modBank b₀ f).pending = s.pending := rfl
@[simp] theorem chan_modBank (b₀ : Bank) (f : BankState → BankState) (c : Channel) : (s.modBank b₀ f).chan c = s.chan c := rfl
@[simp] theorem session_modBank (b₀ : Bank) (f : BankState → BankState) (p : Port) : (s.modBank b₀ f).session p = s.session p := rfl
@[simp] theorem queue_modBank (b₀ : Bank) (f : BankState → BankState) (p : Port) : (s.modBank b₀ f).queue p = s.queue p := rfl
@[simp] theorem port_modBank (b₀ : Bank) (f : BankState → BankState) (p : Port) : (s.modBank b₀ f).port p = s.port p := rfl
@[simp] theorem ceiling_modBank (b₀ : Bank) (f : BankState → BankState) (p : Port) : (s.modBank b₀ f).ceiling p = s.ceiling p := rfl
@[simp] theorem cell_modBank (b₀ : Bank) (f : BankState → BankState) (c : Channel) (d : DriveRange) : (s.modBank b₀ f).cell c d = s.cell c d := rfl
@[simp] theorem sessionOpen_modBank (b₀ : Bank) (f : BankState → BankState) (p : Port) : (s.modBank b₀ f).sessionOpen p = s.sessionOpen p := rfl
@[simp] theorem running_modBank (b₀ : Bank) (f : BankState → BankState) (p : Port) : (s.modBank b₀ f).running p = s.running p := rfl
@[simp] theorem calNames_modBank (b₀ : Bank) (f : BankState → BankState) (c : Channel) : (s.modBank b₀ f).calNames c = s.calNames c := rfl
@[simp] theorem holdsCal_modBank (b₀ : Bank) (f : BankState → BankState) (p : Port) : (s.modBank b₀ f).holdsCal p = s.holdsCal p := rfl
@[simp] theorem ownsClaim_modBank (b₀ : Bank) (f : BankState → BankState) (p : Port) (k : Claim) : (s.modBank b₀ f).ownsClaim p k = s.ownsClaim p k := rfl
@[simp] theorem note_modBank (b₀ : Bank) (f : BankState → BankState) (b : NoteBody) : (s.modBank b₀ f).note b = s.note b := rfl
@[simp] theorem reservedByHead_modBank (b₀ : Bank) (f : BankState → BankState) (c : Channel) : (s.modBank b₀ f).reservedByHead c = s.reservedByHead c := rfl
@[simp] theorem calValue_modBank (b₀ : Bank) (f : BankState → BankState) (c : Channel) : (s.modBank b₀ f).calValue c = s.calValue c := rfl

/-! ## What `modQueue` leaves alone -/

@[simp] theorem chans_modQueue (p₀ : Port) (f : List Note → List Note) : (s.modQueue p₀ f).chans = s.chans := rfl
@[simp] theorem claims_modQueue (p₀ : Port) (f : List Note → List Note) : (s.modQueue p₀ f).claims = s.claims := rfl
@[simp] theorem arrivals_modQueue (p₀ : Port) (f : List Note → List Note) : (s.modQueue p₀ f).arrivals = s.arrivals := rfl
@[simp] theorem sessions_modQueue (p₀ : Port) (f : List Note → List Note) : (s.modQueue p₀ f).sessions = s.sessions := rfl
@[simp] theorem epochCounter_modQueue (p₀ : Port) (f : List Note → List Note) : (s.modQueue p₀ f).epochCounter = s.epochCounter := rfl
@[simp] theorem ceilings_modQueue (p₀ : Port) (f : List Note → List Note) : (s.modQueue p₀ f).ceilings = s.ceilings := rfl
@[simp] theorem banks_modQueue (p₀ : Port) (f : List Note → List Note) : (s.modQueue p₀ f).banks = s.banks := rfl
@[simp] theorem cal_modQueue (p₀ : Port) (f : List Note → List Note) : (s.modQueue p₀ f).cal = s.cal := rfl
@[simp] theorem store_modQueue (p₀ : Port) (f : List Note → List Note) : (s.modQueue p₀ f).store = s.store := rfl
@[simp] theorem timebase_modQueue (p₀ : Port) (f : List Note → List Note) : (s.modQueue p₀ f).timebase = s.timebase := rfl
@[simp] theorem ports_modQueue (p₀ : Port) (f : List Note → List Note) : (s.modQueue p₀ f).ports = s.ports := rfl
@[simp] theorem starting_modQueue (p₀ : Port) (f : List Note → List Note) : (s.modQueue p₀ f).starting = s.starting := rfl
@[simp] theorem resetAsserted_modQueue (p₀ : Port) (f : List Note → List Note) : (s.modQueue p₀ f).resetAsserted = s.resetAsserted := rfl
@[simp] theorem stepDue_modQueue (p₀ : Port) (f : List Note → List Note) : (s.modQueue p₀ f).stepDue = s.stepDue := rfl
@[simp] theorem waitsDue_modQueue (p₀ : Port) (f : List Note → List Note) : (s.modQueue p₀ f).waitsDue = s.waitsDue := rfl
@[simp] theorem leasesDue_modQueue (p₀ : Port) (f : List Note → List Note) : (s.modQueue p₀ f).leasesDue = s.leasesDue := rfl
@[simp] theorem renewed_modQueue (p₀ : Port) (f : List Note → List Note) : (s.modQueue p₀ f).renewed = s.renewed := rfl
@[simp] theorem pending_modQueue (p₀ : Port) (f : List Note → List Note) : (s.modQueue p₀ f).pending = s.pending := rfl
@[simp] theorem chan_modQueue (p₀ : Port) (f : List Note → List Note) (c : Channel) : (s.modQueue p₀ f).chan c = s.chan c := rfl
@[simp] theorem session_modQueue (p₀ : Port) (f : List Note → List Note) (p : Port) : (s.modQueue p₀ f).session p = s.session p := rfl
@[simp] theorem bank_modQueue (p₀ : Port) (f : List Note → List Note) (b : Bank) : (s.modQueue p₀ f).bank b = s.bank b := rfl
@[simp] theorem port_modQueue (p₀ : Port) (f : List Note → List Note) (p : Port) : (s.modQueue p₀ f).port p = s.port p := rfl
@[simp] theorem ceiling_modQueue (p₀ : Port) (f : List Note → List Note) (p : Port) : (s.modQueue p₀ f).ceiling p = s.ceiling p := rfl
@[simp] theorem cell_modQueue (p₀ : Port) (f : List Note → List Note) (c : Channel) (d : DriveRange) : (s.modQueue p₀ f).cell c d = s.cell c d := rfl
@[simp] theorem bankOk_modQueue (p₀ : Port) (f : List Note → List Note) (c : Channel) : (s.modQueue p₀ f).bankOk c = s.bankOk c := rfl
@[simp] theorem sessionOpen_modQueue (p₀ : Port) (f : List Note → List Note) (p : Port) : (s.modQueue p₀ f).sessionOpen p = s.sessionOpen p := rfl
@[simp] theorem running_modQueue (p₀ : Port) (f : List Note → List Note) (p : Port) : (s.modQueue p₀ f).running p = s.running p := rfl
@[simp] theorem calNames_modQueue (p₀ : Port) (f : List Note → List Note) (c : Channel) : (s.modQueue p₀ f).calNames c = s.calNames c := rfl
@[simp] theorem holdsCal_modQueue (p₀ : Port) (f : List Note → List Note) (p : Port) : (s.modQueue p₀ f).holdsCal p = s.holdsCal p := rfl
@[simp] theorem ownsClaim_modQueue (p₀ : Port) (f : List Note → List Note) (p : Port) (k : Claim) : (s.modQueue p₀ f).ownsClaim p k = s.ownsClaim p k := rfl
@[simp] theorem note_modQueue (p₀ : Port) (f : List Note → List Note) (b : NoteBody) : (s.modQueue p₀ f).note b = s.note b := rfl
@[simp] theorem reservedByHead_modQueue (p₀ : Port) (f : List Note → List Note) (c : Channel) : (s.modQueue p₀ f).reservedByHead c = s.reservedByHead c := rfl
@[simp] theorem calValue_modQueue (p₀ : Port) (f : List Note → List Note) (c : Channel) : (s.modQueue p₀ f).calValue c = s.calValue c := rfl

/-! ## What `modPort` leaves alone -/

@[simp] theorem chans_modPort (p₀ : Port) (f : PortState → PortState) : (s.modPort p₀ f).chans = s.chans := rfl
@[simp] theorem claims_modPort (p₀ : Port) (f : PortState → PortState) : (s.modPort p₀ f).claims = s.claims := rfl
@[simp] theorem arrivals_modPort (p₀ : Port) (f : PortState → PortState) : (s.modPort p₀ f).arrivals = s.arrivals := rfl
@[simp] theorem sessions_modPort (p₀ : Port) (f : PortState → PortState) : (s.modPort p₀ f).sessions = s.sessions := rfl
@[simp] theorem epochCounter_modPort (p₀ : Port) (f : PortState → PortState) : (s.modPort p₀ f).epochCounter = s.epochCounter := rfl
@[simp] theorem ceilings_modPort (p₀ : Port) (f : PortState → PortState) : (s.modPort p₀ f).ceilings = s.ceilings := rfl
@[simp] theorem banks_modPort (p₀ : Port) (f : PortState → PortState) : (s.modPort p₀ f).banks = s.banks := rfl
@[simp] theorem cal_modPort (p₀ : Port) (f : PortState → PortState) : (s.modPort p₀ f).cal = s.cal := rfl
@[simp] theorem store_modPort (p₀ : Port) (f : PortState → PortState) : (s.modPort p₀ f).store = s.store := rfl
@[simp] theorem timebase_modPort (p₀ : Port) (f : PortState → PortState) : (s.modPort p₀ f).timebase = s.timebase := rfl
@[simp] theorem queues_modPort (p₀ : Port) (f : PortState → PortState) : (s.modPort p₀ f).queues = s.queues := rfl
@[simp] theorem starting_modPort (p₀ : Port) (f : PortState → PortState) : (s.modPort p₀ f).starting = s.starting := rfl
@[simp] theorem resetAsserted_modPort (p₀ : Port) (f : PortState → PortState) : (s.modPort p₀ f).resetAsserted = s.resetAsserted := rfl
@[simp] theorem stepDue_modPort (p₀ : Port) (f : PortState → PortState) : (s.modPort p₀ f).stepDue = s.stepDue := rfl
@[simp] theorem waitsDue_modPort (p₀ : Port) (f : PortState → PortState) : (s.modPort p₀ f).waitsDue = s.waitsDue := rfl
@[simp] theorem leasesDue_modPort (p₀ : Port) (f : PortState → PortState) : (s.modPort p₀ f).leasesDue = s.leasesDue := rfl
@[simp] theorem renewed_modPort (p₀ : Port) (f : PortState → PortState) : (s.modPort p₀ f).renewed = s.renewed := rfl
@[simp] theorem pending_modPort (p₀ : Port) (f : PortState → PortState) : (s.modPort p₀ f).pending = s.pending := rfl
@[simp] theorem chan_modPort (p₀ : Port) (f : PortState → PortState) (c : Channel) : (s.modPort p₀ f).chan c = s.chan c := rfl
@[simp] theorem session_modPort (p₀ : Port) (f : PortState → PortState) (p : Port) : (s.modPort p₀ f).session p = s.session p := rfl
@[simp] theorem bank_modPort (p₀ : Port) (f : PortState → PortState) (b : Bank) : (s.modPort p₀ f).bank b = s.bank b := rfl
@[simp] theorem queue_modPort (p₀ : Port) (f : PortState → PortState) (p : Port) : (s.modPort p₀ f).queue p = s.queue p := rfl
@[simp] theorem ceiling_modPort (p₀ : Port) (f : PortState → PortState) (p : Port) : (s.modPort p₀ f).ceiling p = s.ceiling p := rfl
@[simp] theorem cell_modPort (p₀ : Port) (f : PortState → PortState) (c : Channel) (d : DriveRange) : (s.modPort p₀ f).cell c d = s.cell c d := rfl
@[simp] theorem bankOk_modPort (p₀ : Port) (f : PortState → PortState) (c : Channel) : (s.modPort p₀ f).bankOk c = s.bankOk c := rfl
@[simp] theorem sessionOpen_modPort (p₀ : Port) (f : PortState → PortState) (p : Port) : (s.modPort p₀ f).sessionOpen p = s.sessionOpen p := rfl
@[simp] theorem running_modPort (p₀ : Port) (f : PortState → PortState) (p : Port) : (s.modPort p₀ f).running p = s.running p := rfl
@[simp] theorem calNames_modPort (p₀ : Port) (f : PortState → PortState) (c : Channel) : (s.modPort p₀ f).calNames c = s.calNames c := rfl
@[simp] theorem holdsCal_modPort (p₀ : Port) (f : PortState → PortState) (p : Port) : (s.modPort p₀ f).holdsCal p = s.holdsCal p := rfl
@[simp] theorem ownsClaim_modPort (p₀ : Port) (f : PortState → PortState) (p : Port) (k : Claim) : (s.modPort p₀ f).ownsClaim p k = s.ownsClaim p k := rfl
@[simp] theorem note_modPort (p₀ : Port) (f : PortState → PortState) (b : NoteBody) : (s.modPort p₀ f).note b = s.note b := rfl
@[simp] theorem reservedByHead_modPort (p₀ : Port) (f : PortState → PortState) (c : Channel) : (s.modPort p₀ f).reservedByHead c = s.reservedByHead c := rfl
@[simp] theorem calValue_modPort (p₀ : Port) (f : PortState → PortState) (c : Channel) : (s.modPort p₀ f).calValue c = s.calValue c := rfl

/-! ## What `modCell` leaves alone -/

@[simp] theorem chans_modCell (c₀ : Channel) (d₀ : DriveRange) (f : Cell → Cell) : (s.modCell c₀ d₀ f).chans = s.chans := rfl
@[simp] theorem claims_modCell (c₀ : Channel) (d₀ : DriveRange) (f : Cell → Cell) : (s.modCell c₀ d₀ f).claims = s.claims := rfl
@[simp] theorem arrivals_modCell (c₀ : Channel) (d₀ : DriveRange) (f : Cell → Cell) : (s.modCell c₀ d₀ f).arrivals = s.arrivals := rfl
@[simp] theorem sessions_modCell (c₀ : Channel) (d₀ : DriveRange) (f : Cell → Cell) : (s.modCell c₀ d₀ f).sessions = s.sessions := rfl
@[simp] theorem epochCounter_modCell (c₀ : Channel) (d₀ : DriveRange) (f : Cell → Cell) : (s.modCell c₀ d₀ f).epochCounter = s.epochCounter := rfl
@[simp] theorem ceilings_modCell (c₀ : Channel) (d₀ : DriveRange) (f : Cell → Cell) : (s.modCell c₀ d₀ f).ceilings = s.ceilings := rfl
@[simp] theorem banks_modCell (c₀ : Channel) (d₀ : DriveRange) (f : Cell → Cell) : (s.modCell c₀ d₀ f).banks = s.banks := rfl
@[simp] theorem cal_modCell (c₀ : Channel) (d₀ : DriveRange) (f : Cell → Cell) : (s.modCell c₀ d₀ f).cal = s.cal := rfl
@[simp] theorem timebase_modCell (c₀ : Channel) (d₀ : DriveRange) (f : Cell → Cell) : (s.modCell c₀ d₀ f).timebase = s.timebase := rfl
@[simp] theorem queues_modCell (c₀ : Channel) (d₀ : DriveRange) (f : Cell → Cell) : (s.modCell c₀ d₀ f).queues = s.queues := rfl
@[simp] theorem ports_modCell (c₀ : Channel) (d₀ : DriveRange) (f : Cell → Cell) : (s.modCell c₀ d₀ f).ports = s.ports := rfl
@[simp] theorem starting_modCell (c₀ : Channel) (d₀ : DriveRange) (f : Cell → Cell) : (s.modCell c₀ d₀ f).starting = s.starting := rfl
@[simp] theorem resetAsserted_modCell (c₀ : Channel) (d₀ : DriveRange) (f : Cell → Cell) : (s.modCell c₀ d₀ f).resetAsserted = s.resetAsserted := rfl
@[simp] theorem stepDue_modCell (c₀ : Channel) (d₀ : DriveRange) (f : Cell → Cell) : (s.modCell c₀ d₀ f).stepDue = s.stepDue := rfl
@[simp] theorem waitsDue_modCell (c₀ : Channel) (d₀ : DriveRange) (f : Cell → Cell) : (s.modCell c₀ d₀ f).waitsDue = s.waitsDue := rfl
@[simp] theorem leasesDue_modCell (c₀ : Channel) (d₀ : DriveRange) (f : Cell → Cell) : (s.modCell c₀ d₀ f).leasesDue = s.leasesDue := rfl
@[simp] theorem renewed_modCell (c₀ : Channel) (d₀ : DriveRange) (f : Cell → Cell) : (s.modCell c₀ d₀ f).renewed = s.renewed := rfl
@[simp] theorem pending_modCell (c₀ : Channel) (d₀ : DriveRange) (f : Cell → Cell) : (s.modCell c₀ d₀ f).pending = s.pending := rfl
@[simp] theorem chan_modCell (c₀ : Channel) (d₀ : DriveRange) (f : Cell → Cell) (c : Channel) : (s.modCell c₀ d₀ f).chan c = s.chan c := rfl
@[simp] theorem session_modCell (c₀ : Channel) (d₀ : DriveRange) (f : Cell → Cell) (p : Port) : (s.modCell c₀ d₀ f).session p = s.session p := rfl
@[simp] theorem bank_modCell (c₀ : Channel) (d₀ : DriveRange) (f : Cell → Cell) (b : Bank) : (s.modCell c₀ d₀ f).bank b = s.bank b := rfl
@[simp] theorem queue_modCell (c₀ : Channel) (d₀ : DriveRange) (f : Cell → Cell) (p : Port) : (s.modCell c₀ d₀ f).queue p = s.queue p := rfl
@[simp] theorem port_modCell (c₀ : Channel) (d₀ : DriveRange) (f : Cell → Cell) (p : Port) : (s.modCell c₀ d₀ f).port p = s.port p := rfl
@[simp] theorem ceiling_modCell (c₀ : Channel) (d₀ : DriveRange) (f : Cell → Cell) (p : Port) : (s.modCell c₀ d₀ f).ceiling p = s.ceiling p := rfl
@[simp] theorem bankOk_modCell (c₀ : Channel) (d₀ : DriveRange) (f : Cell → Cell) (c : Channel) : (s.modCell c₀ d₀ f).bankOk c = s.bankOk c := rfl
@[simp] theorem sessionOpen_modCell (c₀ : Channel) (d₀ : DriveRange) (f : Cell → Cell) (p : Port) : (s.modCell c₀ d₀ f).sessionOpen p = s.sessionOpen p := rfl
@[simp] theorem running_modCell (c₀ : Channel) (d₀ : DriveRange) (f : Cell → Cell) (p : Port) : (s.modCell c₀ d₀ f).running p = s.running p := rfl
@[simp] theorem calNames_modCell (c₀ : Channel) (d₀ : DriveRange) (f : Cell → Cell) (c : Channel) : (s.modCell c₀ d₀ f).calNames c = s.calNames c := rfl
@[simp] theorem holdsCal_modCell (c₀ : Channel) (d₀ : DriveRange) (f : Cell → Cell) (p : Port) : (s.modCell c₀ d₀ f).holdsCal p = s.holdsCal p := rfl
@[simp] theorem ownsClaim_modCell (c₀ : Channel) (d₀ : DriveRange) (f : Cell → Cell) (p : Port) (k : Claim) : (s.modCell c₀ d₀ f).ownsClaim p k = s.ownsClaim p k := rfl
@[simp] theorem note_modCell (c₀ : Channel) (d₀ : DriveRange) (f : Cell → Cell) (b : NoteBody) : (s.modCell c₀ d₀ f).note b = s.note b := rfl
@[simp] theorem reservedByHead_modCell (c₀ : Channel) (d₀ : DriveRange) (f : Cell → Cell) (c : Channel) : (s.modCell c₀ d₀ f).reservedByHead c = s.reservedByHead c := rfl
@[simp] theorem calValue_modCell (c₀ : Channel) (d₀ : DriveRange) (f : Cell → Cell) (c : Channel) : (s.modCell c₀ d₀ f).calValue c = s.calValue c := rfl

end Sys2Proof.Machine
end

