-- ==== Sys2Proof/Laws/Port.lean ====
section
/-! SUPPORT. What a port does with a frame, said once: each outcome of `State.receive` under the conditions that lead to it. -/

namespace Sys2Proof.Machine

variable {α : Type} {s : State} {p : Port} {kind : Byte} {lead : List Byte} {f : Frame} {g : GateClass}
  {refusal : Payload} {operands : List Byte → Option α} {run : α → State → State × Option Reply}

/-! ## Nothing due -/

theorem settled_of_quiet (h : s.quiet) : s.settled = s := by simp [State.settled, h]

theorem flagsDue_of_quiet (h : s.quiet) : s.flagsDue = false := by
  simp only [State.quiet, Bool.and_eq_true, Bool.not_eq_true'] at h
  exact h.1.1.1.1.1.2

theorem takeAllFlags_of_not_due (h : s.flagsDue = false) : s.takeAllFlags = s := by
  rw [State.takeAllFlags, if_neg (by simp [h])]

theorem ready_iff :
    s.ready p kind lead f ↔ s.flagsDue = false ∧ crcGood kind (withLead lead f) ∧ (s.port p).transport = .ready := by
  simp [State.ready, and_assoc]

theorem takes_iff :
    s.takes p kind lead f ↔
      s.ready p kind lead f ∧ s.starting = false ∧ (s.port p).replayOf kind f.seq = none := by
  simp [State.takes, and_assoc]

theorem admits_iff : s.admits p f ↔ s.sessionOpen p ∧ f.epoch = (s.session p).epoch := by simp [State.admits]

theorem isOpen_iff (x : Session) : x.isOpen ↔ x.state = .idle ∨ x.state = .run := by
  unfold Session.isOpen
  cases x.state <;> simp

theorem sessionOpen_iff : s.sessionOpen p ↔ (s.session p).state = .idle ∨ (s.session p).state = .run :=
  isOpen_iff _

theorem running_iff : s.running p ↔ (s.session p).state = .run := by simp [State.running]

/-! ## Updates of one port -/

@[simp] theorem modPort_modPort (f g : PortState → PortState) : (s.modPort p f).modPort p g = s.modPort p (g ∘ f) := by
  simp [State.modPort, State.port]

/-- A part other than the ports is kept by an update of a port. -/
theorem sameBut_modPort (f : PortState → PortState) : SameBut [.ports] s (s.modPort p f) := by
  intro x hx
  cases x <;> simp [Part.Same] at hx ⊢

theorem SameBut.trans {l : List Part} {a b c : State} (h : SameBut l a b) (k : SameBut l b c) : SameBut l a c := by
  intro x hx
  have h₁ := h x hx
  have h₂ := k x hx
  cases x <;> simp_all [Part.Same]

theorem SameBut.weaken {l m : List Part} {a b : State} (h : SameBut l a b) (k : ∀ x ∈ l, x ∈ m) : SameBut m a b :=
  fun x hx => h x fun hl => hx (k x hl)

/-! ### What is read of a part that stayed as it was -/

theorem SameBut.chan {l : List Part} {a b : State} (h : SameBut l a b) (n : Part.chans ∉ l) (c : Channel) :
    b.chan c = a.chan c := by simp only [State.chan, show b.chans = a.chans from h .chans n]

theorem SameBut.session {l : List Part} {a b : State} (h : SameBut l a b) (n : Part.sessions ∉ l) (p : Port) :
    b.session p = a.session p := by simp only [State.session, show b.sessions = a.sessions from h .sessions n]

theorem SameBut.sessionOpen {l : List Part} {a b : State} (h : SameBut l a b) (n : Part.sessions ∉ l) (p : Port) :
    b.sessionOpen p = a.sessionOpen p := by simp only [State.sessionOpen, h.session n]

theorem SameBut.running {l : List Part} {a b : State} (h : SameBut l a b) (n : Part.sessions ∉ l) (p : Port) :
    b.running p = a.running p := by simp only [State.running, h.session n]

theorem SameBut.bank {l : List Part} {a b : State} (h : SameBut l a b) (n : Part.banks ∉ l) (e : Bank) :
    b.bank e = a.bank e := by simp only [State.bank, show b.banks = a.banks from h .banks n]

theorem SameBut.bankOk {l : List Part} {a b : State} (h : SameBut l a b) (n : Part.banks ∉ l) (c : Channel) :
    b.bankOk c = a.bankOk c := by simp only [State.bankOk, h.bank n]

theorem SameBut.queue {l : List Part} {a b : State} (h : SameBut l a b) (n : Part.queues ∉ l) (p : Port) :
    b.queue p = a.queue p := by simp only [State.queue, show b.queues = a.queues from h .queues n]

theorem SameBut.port {l : List Part} {a b : State} (h : SameBut l a b) (n : Part.ports ∉ l) (p : Port) :
    b.port p = a.port p := by simp only [State.port, show b.ports = a.ports from h .ports n]

theorem SameBut.cell {l : List Part} {a b : State} (h : SameBut l a b) (n : Part.store ∉ l) (c : Channel)
    (d : DriveRange) : b.cell c d = a.cell c d := by simp only [State.cell, show b.store = a.store from h .store n]

theorem SameBut.note {l : List Part} {a b : State} (h : SameBut l a b) (n : Part.timebase ∉ l) (x : NoteBody) :
    b.note x = a.note x := by simp only [State.note, show b.timebase = a.timebase from h .timebase n]

theorem SameBut.calNames {l : List Part} {a b : State} (h : SameBut l a b) (n : Part.cal ∉ l) (c : Channel) :
    b.calNames c = a.calNames c := by simp only [State.calNames, show b.cal = a.cal from h .cal n]

theorem SameBut.refl (l : List Part) (s : State) : SameBut l s s := by
  intro x _
  cases x <;> rfl

/-- Two states that agree in every part are the same. -/
theorem SameBut.eq {a b : State} (h : SameBut [] a b) : b = a := by
  have k : ∀ x : Part, x.Same a b := fun x => h x (by simp)
  cases a
  cases b
  rw [State.mk.injEq]
  exact ⟨k .chans, k .claims, k .arrivals, k .sessions, k .epochCounter, k .ceilings, k .banks, k .cal, k .store,
    k .timebase, k .queues, k .ports, k .starting, k .resetAsserted, k .stepDue, k .waitsDue, k .leasesDue, k .renewed,
    k .pending⟩

/-! ## The outcomes of a frame -/

/-- A discarded frame: its CRC differs (R165). -/
theorem receive_crc (q : s.flagsDue = false) (h : crcGood kind (withLead lead f) = false) :
    s.receive p kind lead f g refusal operands run =
      s.modPort p fun x => { x with crcErrors := bumpCount x.crcErrors, sending := none } := by
  simp [State.receive, takeAllFlags_of_not_due q, h, State.newSelection, State.countCrcError, Function.comp_def]

/-- An overrun (R166). -/
theorem receive_overrun (q : s.flagsDue = false) (h : crcGood kind (withLead lead f)) (t : (s.port p).transport ≠ .ready) :
    s.receive p kind lead f g refusal operands run =
      s.modPort p fun x =>
        { x with overruns := bumpCount x.overruns, overrunPending := true, sending := none } := by
  have e : ((s.newSelection p).port p).transport = (s.port p).transport := by simp [State.newSelection]
  unfold State.receive
  rw [takeAllFlags_of_not_due q]
  simp only [h, e, if_true]
  cases ht : (s.port p).transport <;>
    simp_all [State.overrun, State.newSelection, Function.comp_def]

/-- A frame on a READY port goes on to `takeFrame`, the selection before it over. -/
theorem receive_ready (h : s.ready p kind lead f) :
    s.receive p kind lead f g refusal operands run =
      (s.newSelection p).takeFrame p kind f (lead.length + f.payload.length) g refusal (operands f.payload) run := by
  obtain ⟨q, k, t⟩ := ready_iff.1 h
  have e : ((s.newSelection p).port p).transport = .ready := by simp [State.newSelection, t]
  simp [State.receive, takeAllFlags_of_not_due q, k, e]

/-- The response placed without execution (R167, R168). -/
theorem answer_newSelection (r : Response) (replay : Bool) :
    (s.newSelection p).answer p r replay =
      s.modPort p fun x => { x with transport := .answered r replay, sending := none } := by
  simp [State.answer, State.newSelection, Function.comp_def]

/-- While the load runs (R167). -/
theorem receive_starting (h : s.ready p kind lead f) (k : s.starting) :
    s.receive p kind lead f g refusal operands run =
      s.modPort p fun x =>
        { x with transport := .answered ⟨kind, f.seq, .starting, false, .empty⟩ false, sending := none } := by
  rw [receive_ready h]
  simp [State.takeFrame, State.newSelection, State.answer, k, plain, Reply.toResponse, Function.comp_def]

/-- A length that the layout does not allow (R167). -/
theorem receive_format (h : s.ready p kind lead f) (k : s.starting = false)
    (l : 40 < lead.length + f.payload.length ∨ operands f.payload = none) :
    s.receive p kind lead f g refusal operands run =
      s.modPort p fun x =>
        { x with transport := .answered ⟨kind, f.seq, .format, false, .empty⟩ false, sending := none } := by
  rw [receive_ready h]
  by_cases m : Config.maxPayload < lead.length + f.payload.length
  · simp [State.takeFrame, State.newSelection, State.answer, k, m, plain, Reply.toResponse, Function.comp_def]
  · have o : operands f.payload = none := by
      rcases l with l | l
      · exact absurd l m
      · exact l
    simp [State.takeFrame, State.newSelection, State.answer, k, m, o, plain, Reply.toResponse, Function.comp_def]

theorem replayOf_newSelection (seq : Byte) :
    ((s.newSelection p).port p).replayOf kind seq = (s.port p).replayOf kind seq := by
  simp [State.newSelection, PortState.replayOf]

/-- The frame repeats the last executed request (R168). -/
theorem receive_replay {r : Response} {a : α} (h : s.ready p kind lead f) (k : s.starting = false)
    (l : lead.length + f.payload.length ≤ 40) (o : operands f.payload = some a)
    (c : (s.port p).replayOf kind f.seq = some r) :
    s.receive p kind lead f g refusal operands run =
      s.modPort p fun x => { x with transport := .answered r true, sending := none } := by
  have m : ¬Config.maxPayload < lead.length + f.payload.length := by simpa [Config.maxPayload] using l
  rw [receive_ready h]
  simp only [State.takeFrame, replayOf_newSelection, c, o, m, if_false]
  simp [State.newSelection, State.answer, k, Function.comp_def]

/-- A frame taken goes to the gate (R169). -/
theorem receive_takes {a : α} (h : s.takes p kind lead f) (l : lead.length + f.payload.length ≤ 40)
    (o : operands f.payload = some a) :
    s.receive p kind lead f g refusal operands run = (s.newSelection p).execute p kind f g refusal (run a) := by
  obtain ⟨r, k, c⟩ := takes_iff.1 h
  have m : ¬Config.maxPayload < lead.length + f.payload.length := by simpa [Config.maxPayload] using l
  rw [receive_ready r]
  simp only [State.takeFrame, replayOf_newSelection, c, o, m, if_false]
  simp [State.newSelection, k]

@[simp] theorem gate_modPort (q : Port) (k : PortState → PortState) (e : Half) :
    (s.modPort q k).gate g p e = s.gate g p e := rfl

@[simp] theorem gate_newSelection (e : Half) : (s.newSelection p).gate g p e = s.gate g p e := rfl

/-- The gate refuses (R56, R57). -/
theorem receive_refused {a : α} {r : Result} (h : s.takes p kind lead f) (l : lead.length + f.payload.length ≤ 40)
    (o : operands f.payload = some a) (e : s.gate g p f.epoch = some r) :
    s.receive p kind lead f g refusal operands run =
      s.modPort p fun x =>
        { x with
          transport := .answered ⟨kind, f.seq, r, false, refusal⟩ false
          saved := some ⟨f.seq, kind, ⟨kind, f.seq, r, false, refusal⟩⟩
          sending := none } := by
  rw [receive_takes h l o]
  simp [State.execute, e, State.complete, State.newSelection, Reply.toResponse, Function.comp_def]

/-- The gate admits and the block replies (R169). -/
theorem receive_executed {a : α} {t : State} {r : Reply} (h : s.takes p kind lead f)
    (l : lead.length + f.payload.length ≤ 40) (o : operands f.payload = some a) (e : s.gate g p f.epoch = none)
    (b : run a (s.newSelection p) = (t, some r)) :
    s.receive p kind lead f g refusal operands run = t.complete p kind f.seq r := by
  rw [receive_takes h l o]
  simp [State.execute, e, b]

/-- The gate admits an exempt kind (R56). -/
@[simp] theorem gate_exempt (e : Half) : s.gate .exempt p e = none := rfl

/-- The gate admits a session in IDLE or RUN whose epoch matches (R56). -/
theorem gate_of_admits (h : s.admits p f) (g : GateClass) : s.gate g p f.epoch = none := by
  obtain ⟨o, e⟩ := admits_iff.1 h
  rcases sessionOpen_iff.1 o with k | k <;> cases g <;> simp [State.gate, k, e]

/-! ## The answer -/

/-- The ports after a request completes, when the block left them alone (R169). -/
theorem answered_complete {t : State} {r : Reply} (h : t.ports = (s.newSelection p).ports) :
    Answered s (t.complete p kind f.seq r) p kind f r := by
  have e : ∀ q, t.port q = (s.newSelection p).port q := fun q => by simp [State.port, h]
  constructor
  · simp [State.complete, e, State.newSelection]
  · intro q hq
    simp [State.complete, e, State.newSelection, Ne.symm hq]

theorem sameBut_complete {t : State} {r : Reply} {seq : Byte} : SameBut [.ports] t (t.complete p kind seq r) :=
  sameBut_modPort _

/-- A block that changes nothing: only the answer. -/
theorem receive_only {a : α} {r : Reply} (h : s.takes p kind lead f) (l : lead.length + f.payload.length ≤ 40)
    (o : operands f.payload = some a) (e : s.gate g p f.epoch = none)
    (b : run a (s.newSelection p) = (s.newSelection p, some r)) :
    ∃ t, s.receive p kind lead f g refusal operands run = t ∧ Answered s t p kind f r ∧ SameBut [.ports] s t :=
  ⟨_, receive_executed h l o e b, answered_complete rfl, SameBut.trans (sameBut_modPort _) sameBut_complete⟩

end Sys2Proof.Machine
end

