-- ==== Sys2Proof/Laws/Queue.lean ====
section
/-! SUPPORT. Records that join a queue: the bound of a queue, what handing a record over changes, and what a list of records leaves in each queue. -/

namespace Sys2Proof.Machine

variable (s : State)

/-! ## One queue -/

/-- The queue holds at most 16 records, and one of 16 ends in an OVERFLOW record (R127, R128). -/
def QueueBounded (q : List Note) : Prop := q.length ≤ 16 ∧ (q.length = 16 → (overflowTail q).isSome)

theorem overflowTail_append (l : List Note) (n : Nat) (t : Half) :
    overflowTail (l ++ [⟨.overflow n, t⟩]) = some (n, t) := by
  simp [overflowTail]

theorem overflowTail_some {q : List Note} {n : Nat} {t : Half} (h : overflowTail q = some (n, t)) :
    q = q.dropLast ++ [⟨.overflow n, t⟩] := by
  unfold overflowTail at h
  split at h
  · next m u e =>
    obtain ⟨rfl, rfl⟩ : m = n ∧ u = t := by simpa using h
    obtain ⟨l, rfl⟩ : ∃ l, q = l ++ [⟨.overflow m, u⟩] := by
      have := List.getLast?_eq_some_iff.1 e
      exact this
    simp
  · cases h

/-- A record that joins keeps the bound (R128). -/
theorem queueBounded_append {q : List Note} (h : QueueBounded q) (n : Note) : QueueBounded (appendNote n q) := by
  obtain ⟨h₁, h₂⟩ := h
  unfold appendNote
  split
  · next lost t e =>
    split
    · next c =>
      simp only [Config.queueCapacity] at c
      exact ⟨by simp; omega, fun k => by simp at k; omega⟩
    · have l : q.dropLast.length + 1 = q.length := by
        have := congrArg List.length (overflowTail_some e)
        simp only [List.length_append, List.length_singleton] at this
        omega
      exact ⟨by simp only [List.length_append, List.length_singleton]; omega, fun _ => by simp [overflowTail_append]⟩
  · next e =>
    split
    · next c =>
      simp only [Config.queueCapacity] at c
      exact ⟨by simp; omega, fun k => by simp at k; omega⟩
    · split
      · next c =>
        simp only [Config.queueCapacity] at c
        exact ⟨by simp; omega, fun _ => by simp [overflowTail_append]⟩
      · exact ⟨h₁, h₂⟩

theorem queueBounded_nil : QueueBounded [] := by simp [QueueBounded]

theorem queueBounded_drop {q : List Note} (h : QueueBounded q) {n : Nat} (k : n ≠ 0) : QueueBounded (q.drop n) := by
  have := h.1
  constructor
  · simp; omega
  · intro e
    simp at e
    omega

/-! ## Handing over leaves the rest alone -/

theorem notify_eq (p : Port) (b : NoteBody) : s.notify p b = { s with queues := (s.notify p b).queues } := by
  unfold State.notify
  split <;> rfl

theorem notifyAll_nil : s.notifyAll [] = s := rfl

theorem notifyAll_cons (x : Port × NoteBody) (l : List (Port × NoteBody)) :
    s.notifyAll (x :: l) = (s.notify x.1 x.2).notifyAll l := rfl

theorem notifyAll_eq (l : List (Port × NoteBody)) :
    s.notifyAll l = { s with queues := (s.notifyAll l).queues } := by
  induction l generalizing s with
  | nil => rfl
  | cons x l ih =>
    rw [notifyAll_cons, ih, notify_eq]

@[simp] theorem chans_notify (p : Port) (b : NoteBody) : (s.notify p b).chans = s.chans := by rw [notify_eq]
@[simp] theorem claims_notify (p : Port) (b : NoteBody) : (s.notify p b).claims = s.claims := by rw [notify_eq]
@[simp] theorem arrivals_notify (p : Port) (b : NoteBody) : (s.notify p b).arrivals = s.arrivals := by rw [notify_eq]
@[simp] theorem sessions_notify (p : Port) (b : NoteBody) : (s.notify p b).sessions = s.sessions := by rw [notify_eq]
@[simp] theorem epochCounter_notify (p : Port) (b : NoteBody) : (s.notify p b).epochCounter = s.epochCounter := by rw [notify_eq]
@[simp] theorem ceilings_notify (p : Port) (b : NoteBody) : (s.notify p b).ceilings = s.ceilings := by rw [notify_eq]
@[simp] theorem banks_notify (p : Port) (b : NoteBody) : (s.notify p b).banks = s.banks := by rw [notify_eq]
@[simp] theorem cal_notify (p : Port) (b : NoteBody) : (s.notify p b).cal = s.cal := by rw [notify_eq]
@[simp] theorem store_notify (p : Port) (b : NoteBody) : (s.notify p b).store = s.store := by rw [notify_eq]
@[simp] theorem timebase_notify (p : Port) (b : NoteBody) : (s.notify p b).timebase = s.timebase := by rw [notify_eq]
@[simp] theorem ports_notify (p : Port) (b : NoteBody) : (s.notify p b).ports = s.ports := by rw [notify_eq]
@[simp] theorem starting_notify (p : Port) (b : NoteBody) : (s.notify p b).starting = s.starting := by rw [notify_eq]
@[simp] theorem resetAsserted_notify (p : Port) (b : NoteBody) : (s.notify p b).resetAsserted = s.resetAsserted := by rw [notify_eq]
@[simp] theorem stepDue_notify (p : Port) (b : NoteBody) : (s.notify p b).stepDue = s.stepDue := by rw [notify_eq]
@[simp] theorem waitsDue_notify (p : Port) (b : NoteBody) : (s.notify p b).waitsDue = s.waitsDue := by rw [notify_eq]
@[simp] theorem leasesDue_notify (p : Port) (b : NoteBody) : (s.notify p b).leasesDue = s.leasesDue := by rw [notify_eq]
@[simp] theorem renewed_notify (p : Port) (b : NoteBody) : (s.notify p b).renewed = s.renewed := by rw [notify_eq]
@[simp] theorem pending_notify (p : Port) (b : NoteBody) : (s.notify p b).pending = s.pending := by rw [notify_eq]
@[simp] theorem chan_notify (p : Port) (b : NoteBody) (c : Channel) : (s.notify p b).chan c = s.chan c := by rw [notify_eq]; rfl
@[simp] theorem session_notify (p : Port) (b : NoteBody) (q : Port) : (s.notify p b).session q = s.session q := by rw [notify_eq]; rfl
@[simp] theorem bank_notify (p : Port) (b : NoteBody) (e : Bank) : (s.notify p b).bank e = s.bank e := by rw [notify_eq]; rfl
@[simp] theorem port_notify (p : Port) (b : NoteBody) (q : Port) : (s.notify p b).port q = s.port q := by rw [notify_eq]; rfl
@[simp] theorem cell_notify (p : Port) (b : NoteBody) (c : Channel) (d : DriveRange) : (s.notify p b).cell c d = s.cell c d := by rw [notify_eq]; rfl
@[simp] theorem bankOk_notify (p : Port) (b : NoteBody) (c : Channel) : (s.notify p b).bankOk c = s.bankOk c := by rw [notify_eq]; rfl
@[simp] theorem sessionOpen_notify (p : Port) (b : NoteBody) (q : Port) : (s.notify p b).sessionOpen q = s.sessionOpen q := by rw [notify_eq]; rfl
@[simp] theorem running_notify (p : Port) (b : NoteBody) (q : Port) : (s.notify p b).running q = s.running q := by rw [notify_eq]; rfl
@[simp] theorem calNames_notify (p : Port) (b : NoteBody) (c : Channel) : (s.notify p b).calNames c = s.calNames c := by rw [notify_eq]; rfl
@[simp] theorem holdsCal_notify (p : Port) (b : NoteBody) (q : Port) : (s.notify p b).holdsCal q = s.holdsCal q := by rw [notify_eq]; rfl
@[simp] theorem ownsClaim_notify (p : Port) (b : NoteBody) (q : Port) (k : Claim) : (s.notify p b).ownsClaim q k = s.ownsClaim q k := by rw [notify_eq]; rfl
@[simp] theorem note_notify (p : Port) (b : NoteBody) (x : NoteBody) : (s.notify p b).note x = s.note x := by rw [notify_eq]; rfl
@[simp] theorem reservedByHead_notify (p : Port) (b : NoteBody) (c : Channel) : (s.notify p b).reservedByHead c = s.reservedByHead c := by rw [notify_eq]; rfl
@[simp] theorem calValue_notify (p : Port) (b : NoteBody) (c : Channel) : (s.notify p b).calValue c = s.calValue c := by rw [notify_eq]; rfl

@[simp] theorem chans_notifyAll (l : List (Port × NoteBody)) : (s.notifyAll l).chans = s.chans := by rw [notifyAll_eq]
@[simp] theorem claims_notifyAll (l : List (Port × NoteBody)) : (s.notifyAll l).claims = s.claims := by rw [notifyAll_eq]
@[simp] theorem arrivals_notifyAll (l : List (Port × NoteBody)) : (s.notifyAll l).arrivals = s.arrivals := by rw [notifyAll_eq]
@[simp] theorem sessions_notifyAll (l : List (Port × NoteBody)) : (s.notifyAll l).sessions = s.sessions := by rw [notifyAll_eq]
@[simp] theorem epochCounter_notifyAll (l : List (Port × NoteBody)) : (s.notifyAll l).epochCounter = s.epochCounter := by rw [notifyAll_eq]
@[simp] theorem ceilings_notifyAll (l : List (Port × NoteBody)) : (s.notifyAll l).ceilings = s.ceilings := by rw [notifyAll_eq]
@[simp] theorem banks_notifyAll (l : List (Port × NoteBody)) : (s.notifyAll l).banks = s.banks := by rw [notifyAll_eq]
@[simp] theorem cal_notifyAll (l : List (Port × NoteBody)) : (s.notifyAll l).cal = s.cal := by rw [notifyAll_eq]
@[simp] theorem store_notifyAll (l : List (Port × NoteBody)) : (s.notifyAll l).store = s.store := by rw [notifyAll_eq]
@[simp] theorem timebase_notifyAll (l : List (Port × NoteBody)) : (s.notifyAll l).timebase = s.timebase := by rw [notifyAll_eq]
@[simp] theorem ports_notifyAll (l : List (Port × NoteBody)) : (s.notifyAll l).ports = s.ports := by rw [notifyAll_eq]
@[simp] theorem starting_notifyAll (l : List (Port × NoteBody)) : (s.notifyAll l).starting = s.starting := by rw [notifyAll_eq]
@[simp] theorem resetAsserted_notifyAll (l : List (Port × NoteBody)) : (s.notifyAll l).resetAsserted = s.resetAsserted := by rw [notifyAll_eq]
@[simp] theorem stepDue_notifyAll (l : List (Port × NoteBody)) : (s.notifyAll l).stepDue = s.stepDue := by rw [notifyAll_eq]
@[simp] theorem waitsDue_notifyAll (l : List (Port × NoteBody)) : (s.notifyAll l).waitsDue = s.waitsDue := by rw [notifyAll_eq]
@[simp] theorem leasesDue_notifyAll (l : List (Port × NoteBody)) : (s.notifyAll l).leasesDue = s.leasesDue := by rw [notifyAll_eq]
@[simp] theorem renewed_notifyAll (l : List (Port × NoteBody)) : (s.notifyAll l).renewed = s.renewed := by rw [notifyAll_eq]
@[simp] theorem pending_notifyAll (l : List (Port × NoteBody)) : (s.notifyAll l).pending = s.pending := by rw [notifyAll_eq]
@[simp] theorem chan_notifyAll (l : List (Port × NoteBody)) (c : Channel) : (s.notifyAll l).chan c = s.chan c := by rw [notifyAll_eq]; rfl
@[simp] theorem session_notifyAll (l : List (Port × NoteBody)) (q : Port) : (s.notifyAll l).session q = s.session q := by rw [notifyAll_eq]; rfl
@[simp] theorem bank_notifyAll (l : List (Port × NoteBody)) (e : Bank) : (s.notifyAll l).bank e = s.bank e := by rw [notifyAll_eq]; rfl
@[simp] theorem port_notifyAll (l : List (Port × NoteBody)) (q : Port) : (s.notifyAll l).port q = s.port q := by rw [notifyAll_eq]; rfl
@[simp] theorem cell_notifyAll (l : List (Port × NoteBody)) (c : Channel) (d : DriveRange) : (s.notifyAll l).cell c d = s.cell c d := by rw [notifyAll_eq]; rfl
@[simp] theorem bankOk_notifyAll (l : List (Port × NoteBody)) (c : Channel) : (s.notifyAll l).bankOk c = s.bankOk c := by rw [notifyAll_eq]; rfl
@[simp] theorem sessionOpen_notifyAll (l : List (Port × NoteBody)) (q : Port) : (s.notifyAll l).sessionOpen q = s.sessionOpen q := by rw [notifyAll_eq]; rfl
@[simp] theorem running_notifyAll (l : List (Port × NoteBody)) (q : Port) : (s.notifyAll l).running q = s.running q := by rw [notifyAll_eq]; rfl
@[simp] theorem calNames_notifyAll (l : List (Port × NoteBody)) (c : Channel) : (s.notifyAll l).calNames c = s.calNames c := by rw [notifyAll_eq]; rfl
@[simp] theorem holdsCal_notifyAll (l : List (Port × NoteBody)) (q : Port) : (s.notifyAll l).holdsCal q = s.holdsCal q := by rw [notifyAll_eq]; rfl
@[simp] theorem ownsClaim_notifyAll (l : List (Port × NoteBody)) (q : Port) (k : Claim) : (s.notifyAll l).ownsClaim q k = s.ownsClaim q k := by rw [notifyAll_eq]; rfl
@[simp] theorem note_notifyAll (l : List (Port × NoteBody)) (x : NoteBody) : (s.notifyAll l).note x = s.note x := by rw [notifyAll_eq]; rfl
@[simp] theorem reservedByHead_notifyAll (l : List (Port × NoteBody)) (c : Channel) : (s.notifyAll l).reservedByHead c = s.reservedByHead c := by rw [notifyAll_eq]; rfl
@[simp] theorem calValue_notifyAll (l : List (Port × NoteBody)) (c : Channel) : (s.notifyAll l).calValue c = s.calValue c := by rw [notifyAll_eq]; rfl

/-! ## What each queue holds afterwards -/

theorem queue_notify (p : Port) (b : NoteBody) (q : Port) :
    (s.notify p b).queue q =
      if p = q then (if s.sessionOpen p then appendNote (s.note b) (s.queue p) else s.queue p) else s.queue q := by
  unfold State.notify
  by_cases h : s.sessionOpen p <;> by_cases e : p = q
  · subst e; simp [h]
  · simp [h, e]
  · subst e; simp [h]
  · simp [h, e]

/-- Records handed over in order join each queue in that order (R128, R129, R133). -/
theorem queue_notifyAll (l : List (Port × NoteBody)) (q : Port) :
    (s.notifyAll l).queue q =
      if s.sessionOpen q then joined (s.notesFor l q) (s.queue q) else s.queue q := by
  induction l generalizing s with
  | nil => simp [notifyAll_nil, State.notesFor, joined]
  | cons x l ih =>
    rw [notifyAll_cons, ih]
    have n : (s.notify x.1 x.2).notesFor l q = s.notesFor l q := by simp [State.notesFor]
    rw [n, queue_notify]
    by_cases o : s.sessionOpen q <;> by_cases e : x.1 = q
    · subst e; simp [o, State.notesFor, joined]
    · simp [o, e, State.notesFor]
    · subst e; simp [o]
    · simp [o, e]

theorem handed_notifyAll (l : List (Port × NoteBody)) : Handed s (s.notifyAll l) l := fun q => queue_notifyAll s l q

theorem sameBut_notifyAll (l : List (Port × NoteBody)) : SameBut [.queues] s (s.notifyAll l) := by
  intro x hx
  cases x <;> simp [Part.Same] at hx ⊢

theorem sameBut_notify (p : Port) (b : NoteBody) : SameBut [.queues] s (s.notify p b) := by
  intro x hx
  cases x <;> simp [Part.Same] at hx ⊢

/-- Every queue keeps its bound when records are handed over. -/
theorem queuesBounded_notify {s : State} (h : s.QueuesBounded) (p : Port) (b : NoteBody) :
    (s.notify p b).QueuesBounded := by
  intro q
  rw [queue_notify]
  split
  · split
    · exact queueBounded_append (h p) _
    · exact h p
  · exact h q

theorem queuesBounded_notifyAll {s : State} (h : s.QueuesBounded) (l : List (Port × NoteBody)) :
    (s.notifyAll l).QueuesBounded := by
  induction l generalizing s with
  | nil => exact h
  | cons x l ih => exact ih (queuesBounded_notify h _ _)

theorem queuesBounded_congr {s t : State} (h : s.QueuesBounded) (k : ∀ p, t.queue p = s.queue p) : t.QueuesBounded := by
  intro p
  rw [k]
  exact h p

end Sys2Proof.Machine
end

