-- ==== Sys2Proof/Laws/Channel.lean ====
section
/-! SUPPORT. What the entries of the output engine leave of a channel: its owner, its configuration, its target, and the agreement of its fields. -/

namespace Sys2Proof.Machine

variable (r : Chan) (a : Action) (b run : Bool) (p : Port)

/-! ## Fields an entry keeps -/

@[simp] theorem own_force : (r.force b a).own = r.own := by unfold Chan.force; split <;> [rfl; split <;> rfl]
@[simp] theorem config_force : (r.force b a).config = r.config := by unfold Chan.force; split <;> [rfl; split <;> rfl]
@[simp] theorem target_force : (r.force b a).target = r.target := by unfold Chan.force; split <;> [rfl; split <;> rfl]
@[simp] theorem openLoadCount_force : (r.force b a).openLoadCount = r.openLoadCount := by
  unfold Chan.force; split <;> [rfl; split <;> rfl]
@[simp] theorem deviationCount_force : (r.force b a).deviationCount = r.deviationCount := by
  unfold Chan.force; split <;> [rfl; split <;> rfl]

@[simp] theorem own_handover : (r.handover b).own = r.own := by unfold Chan.handover; split <;> rfl
@[simp] theorem config_handover : (r.handover b).config = r.config := by unfold Chan.handover; split <;> rfl
@[simp] theorem target_handover : (r.handover b).target = r.target := by unfold Chan.handover; split <;> rfl

@[simp] theorem own_enter : (Chan.enter run b r).own = r.own := by unfold Chan.enter; split <;> simp
@[simp] theorem config_enter : (Chan.enter run b r).config = r.config := by unfold Chan.enter; split <;> simp
@[simp] theorem target_enter : (Chan.enter run b r).target = r.target := by unfold Chan.enter; split <;> simp

@[simp] theorem own_grant : (r.grant p run b).own = .owned p := by simp [Chan.grant]
@[simp] theorem config_grant : (r.grant p run b).config = r.config := by simp [Chan.grant]
@[simp] theorem target_grant : (r.grant p run b).target = none := by simp [Chan.grant]

/-- The grant does not depend on the ownership it replaces (R27). -/
@[simp] theorem grant_own (o : Ownership) : ({ r with own := o } : Chan).grant p run b = r.grant p run b := rfl

@[simp] theorem own_release : (r.release b a).own = .free := rfl
@[simp] theorem config_release : (r.release b a).config = r.config := by simp [Chan.release]
@[simp] theorem target_release : (r.release b a).target = r.target := by simp [Chan.release]

@[simp] theorem own_fieldLoss : r.fieldLoss.own = r.own := rfl
@[simp] theorem config_fieldLoss : r.fieldLoss.config = r.config := rfl

theorem owner_eq_some {r : Chan} {p : Port} : r.owner = some p ↔ r.own = .owned p := by
  unfold Chan.owner
  cases r.own <;> simp

theorem owner_eq_none {r : Chan} : r.owner = none ↔ r.own = .free ∨ r.own = .reserved := by
  unfold Chan.owner
  cases r.own <;> simp

theorem ownedBy_iff {r : Chan} {p : Port} : r.ownedBy p ↔ r.own = .owned p := by simp [Chan.ownedBy]

/-! ## The agreement of the fields -/

/-- What `Chan.Agrees` says depends on five fields and whether the range is OFF. -/
theorem agrees_congr {r t : Chan} (h : r.Agrees) (d : t.drive = r.drive) (v : t.applied = r.applied)
    (e : t.held = r.held) (f : t.forced = r.forced) (m : t.timer = r.timer)
    (g : t.target.isSome = r.target.isSome) (o : t.config.range = .off → r.config.range = .off) : t.Agrees := by
  unfold Chan.Agrees at h ⊢
  rw [d, v, e, f, m]
  cases hd : r.drive <;> simp_all

/-- Entry into FORCED leaves the fields in agreement (R98, R100, R105), from any state of a channel that can drive or is
OFF. -/
theorem agrees_force {r : Chan} (h : r.Agrees) (k : r.config.range = .off ∨ b = false → r.drive = .off) (a : Action) :
    (r.force b a).Agrees := by
  unfold Chan.force
  split
  · exact h
  · split
    · unfold Chan.Agrees
      exact ⟨a, rfl, rfl, rfl⟩
    · next hr hb =>
      have d : r.drive = .off := k (.inr (by simpa using hb))
      unfold Chan.Agrees at h ⊢
      simp only [d] at h ⊢
      refine ⟨h.1, h.2.1, h.2.2.1, ?_, fun e => absurd e hr⟩
      intro x hx
      cases hx
      rfl

/-- Entry into handover leaves the fields in agreement (R83). -/
theorem agrees_handover {r : Chan} (h : r.Agrees) : (r.handover b).Agrees := by
  unfold Chan.handover
  split
  · exact h
  · unfold Chan.Agrees
    exact ⟨rfl, rfl⟩

theorem agrees_enter {r : Chan} (h : r.Agrees) (k : r.config.range = .off ∨ b = false → r.drive = .off) :
    (Chan.enter run b r).Agrees := by
  unfold Chan.enter
  split
  · exact agrees_handover b h
  · exact agrees_force b h k _

theorem drive_force {r : Chan} {a : Action} :
    (r.force b a).drive = if r.config.range = .off ∨ b = false then r.drive else .forced := by
  unfold Chan.force
  by_cases h : r.config.range = .off <;> cases b <;> simp [h]

theorem drive_handover {r : Chan} :
    (r.handover b).drive = if r.config.range = .off ∨ b = false then r.drive else .holding := by
  unfold Chan.handover
  split <;> simp_all

theorem drive_enter {r : Chan} :
    (Chan.enter run b r).drive =
      if r.config.range = .off ∨ b = false then r.drive else if run then .holding else .forced := by
  unfold Chan.enter
  cases run <;> simp [drive_force, drive_handover]

theorem drive_grant {r : Chan} :
    (r.grant p run b).drive =
      if r.config.range = .off ∨ b = false then r.drive else if run then .holding else .forced := by
  simp [Chan.grant, drive_enter]

theorem drive_release {r : Chan} {a : Action} :
    (r.release b a).drive = if r.config.range = .off ∨ b = false then r.drive else .forced := by
  simp [Chan.release, drive_force]

/-- The grant to a session of a channel that is OFF or FORCED (R27). -/
theorem agrees_grant {r : Chan} (h : r.Agrees) (d : r.drive = .off ∨ r.drive = .forced)
    (k : r.config.range = .off ∨ b = false → r.drive = .off) : (r.grant p run b).Agrees := by
  unfold Chan.grant
  refine agrees_enter b run ?_ k
  unfold Chan.Agrees at h ⊢
  rcases d with d | d <;> simp only [d] at h ⊢ <;> exact h

theorem agrees_release {r : Chan} {a : Action} (h : r.Agrees)
    (k : r.config.range = .off ∨ b = false → r.drive = .off) : (r.release b a).Agrees :=
  agrees_congr (agrees_force b h k a) rfl rfl rfl rfl rfl rfl id

/-- Field loss (R115, R105). -/
theorem agrees_fieldLoss {r : Chan} (h : r.Agrees) (k : r.config.range = .off → r.drive = .off) : r.fieldLoss.Agrees := by
  show r.fieldLoss.applied = 0 ∧ r.fieldLoss.held = none ∧ r.fieldLoss.timer = none ∧
    (∀ x, r.fieldLoss.forced = some x → x.value = none) ∧ (r.fieldLoss.config.range = .off → r.fieldLoss.forced = none)
  refine ⟨rfl, rfl, rfl, ?_, ?_⟩
  · intro x hx
    unfold Chan.Agrees at h
    cases hd : r.drive <;> simp only [hd, Chan.fieldLoss] at h hx
    · exact h.2.2.2.1 x hx
    · obtain ⟨y, -, rfl⟩ := Option.map_eq_some_iff.1 hx
      rfl
    all_goals cases hx
  · intro e
    have d := k e
    unfold Chan.Agrees at h
    simp only [d] at h
    simp only [Chan.fieldLoss, d]
    exact h.2.2.2.2 e

end Sys2Proof.Machine
end

