-- ==== Sys2Proof/Laws/Arbiter.lean ====
section
/-! SUPPORT. The grant pass said once: which claims it grants, what it leaves of every channel, list and queue, and that nothing grantable remains. -/

namespace Sys2Proof.Machine

/-! ## Sets of channels -/

theorem mem_allChannels (c : Channel) : c ∈ allChannels := by revert c; decide

theorem mem_allPorts (p : Port) : p ∈ allPorts := by revert p; decide

theorem allFree_iff {s : State} {set : ChanSet} : s.allFree set ↔ ∀ c, inSet set c → (s.chan c).own = .free := by
  simp only [State.allFree, List.all_eq_true, Bool.or_eq_true, Bool.not_eq_true', decide_eq_true_eq]
  constructor
  · intro h c hc
    rcases h c (mem_allChannels c) with k | k
    · simp [k] at hc
    · exact k
  · intro h c _
    by_cases hc : inSet set c
    · exact .inr (h c hc)
    · exact .inl (by simpa using hc)

/-! ## Grants and reservations -/

theorem chan_grant (s : State) (p : Port) (set : ChanSet) (c : Channel) :
    (s.grant p set).chan c =
      if inSet set c then (s.chan c).grant p (s.running p) (s.bankOk c) else s.chan c := by
  simp [State.grant]

theorem chan_reserve (s : State) (set : ChanSet) (c : Channel) :
    (s.reserve set).chan c =
      if inSet set c ∧ (s.chan c).own = .free then { s.chan c with own := .reserved } else s.chan c := by
  simp [State.reserve]

theorem chan_clearReservations (s : State) (c : Channel) :
    s.clearReservations.chan c =
      if (s.chan c).own = .reserved then { s.chan c with own := .free } else s.chan c := by
  simp [State.clearReservations]

theorem sameBut_mapChans (s : State) (f : Channel → Chan → Chan) : SameBut [.chans] s (s.mapChans f) := by
  intro x hx
  cases x <;> simp [Part.Same] at hx ⊢

/-! ## The walk -/

/-- Which claims the walk grants (R25, R28), each claim of the list marked in its place: those whose channels are all FREE,
in no set of a claim granted ahead, and not in the set of the head that the walk placed ahead. -/
def MarksGranted (placed : Bool) (s : State) (marks : List (Claim × Bool)) : Prop :=
  ∀ ahead k taken behind, marks = ahead ++ (k, taken) :: behind →
    (taken = true ↔ ∀ c, inSet k.set c → (s.chan c).own = .free ∧
      (∀ x ∈ ahead, x.2 = true → inSet x.1.set c = false) ∧
      (placed = false → ∀ h, (ahead.filter fun x => !x.2).head? = some h → inSet h.1.set c = false))

/-- What the walk of a list makes of a state (R28). `placed`: a head stood already. -/
structure Walked (ks : List Claim) (placed : Bool) (kept : List Claim) (s t : State) (granted rest : List Claim) :
    Prop where
  granted_sub : granted.Sublist ks
  rest_sub : rest.Sublist ks
  perm : (granted ++ rest).Perm ks
  claims : t.claims = kept ++ rest
  same : SameBut [.chans, .claims, .queues] s t
  handed : Handed s t (granted.map fun k => (k.port, .granted k.tag k.set))
  /-- Every channel of a granted claim is granted. -/
  taken : ∀ k ∈ granted, ∀ c, inSet k.set c → t.chan c = (s.chan c).grant k.port (s.running k.port) (s.bankOk c)
  /-- Every other channel is as it was, but that the new head reserves. -/
  other : ∀ c, (∀ k ∈ granted, inSet k.set c = false) →
    t.chan c =
      if placed = false ∧ (∃ k, rest.head? = some k ∧ inSet k.set c) ∧ (s.chan c).own = .free then
        { s.chan c with own := .reserved }
      else s.chan c
  /-- A claim that stays names a channel that is not FREE. -/
  blocked : ∀ k ∈ rest, ∃ c, inSet k.set c ∧ (t.chan c).own ≠ .free
  /-- A head placed by the walk names a channel that has an owner, if nothing was reserved before. -/
  headBlocked : placed = false → (∀ c, (s.chan c).own ≠ .reserved) →
    ∀ k, rest.head? = some k → ∃ c, inSet k.set c ∧ (t.chan c).owner.isSome
  /-- What is granted was FREE. -/
  free : ∀ k ∈ granted, ∀ c, inSet k.set c → (s.chan c).own = .free
  /-- The claims granted are those that the walk finds grantable in their places. -/
  marks : ∃ marks : List (Claim × Bool), marks.map Prod.fst = ks ∧ MarksGranted placed s marks ∧
    granted = (marks.filter fun x => x.2).map Prod.fst ∧ rest = (marks.filter fun x => !x.2).map Prod.fst

theorem handed_append {s t u : State} {l m : List (Port × NoteBody)} (h : Handed s t l) (k : Handed t u m)
    (o : ∀ p, t.sessionOpen p = s.sessionOpen p) (n : t.timebase.unitCounter = s.timebase.unitCounter) :
    Handed s u (l ++ m) := by
  intro p
  rw [k p, h p, o p]
  split
  · simp [State.notesFor, State.note, joined, n]
  · rfl

theorem handed_refl (s : State) : Handed s s [] := by
  intro p
  simp [State.notesFor, joined]

theorem handed_congr {s t : State} (h : ∀ p, t.queue p = s.queue p) : Handed s t [] := by
  intro p
  simp [State.notesFor, joined, h]

theorem notFree_of_notFree {ks : List Claim} {placed : Bool} {kept : List Claim} {s t : State} {granted rest : List Claim}
    (w : Walked ks placed kept s t granted rest) {c : Channel} (h : (s.chan c).own ≠ .free) : (t.chan c).own ≠ .free := by
  by_cases g : ∃ k ∈ granted, inSet k.set c
  · obtain ⟨k, hk, hc⟩ := g
    simp [w.taken k hk c hc]
  · have g' : ∀ k ∈ granted, inSet k.set c = false := by
      intro k hk
      by_contra hc
      exact g ⟨k, hk, by simpa using hc⟩
    rw [w.other c g']
    simp [h]

theorem marksGranted_nil (placed : Bool) (s : State) : MarksGranted placed s [] := by
  intro ahead k taken behind h
  simp at h

/-- A claim in front of a list that the walk has marked from the state it leaves. -/
theorem marksGranted_cons {placed next taken : Bool} {s u : State} {k : Claim} {marks : List (Claim × Bool)}
    (first : taken = true ↔ ∀ c, inSet k.set c → (s.chan c).own = .free)
    (chan : ∀ c, (u.chan c).own = .free ↔ (s.chan c).own = .free ∧
      (taken = true → inSet k.set c = false) ∧ (taken = false → placed = false → inSet k.set c = false))
    (head : next = (placed || !taken)) (m : MarksGranted next u marks) :
    MarksGranted placed s ((k, taken) :: marks) := by
  intro ahead j b behind h
  cases ahead with
  | nil =>
    obtain ⟨⟨rfl, rfl⟩, -⟩ : (k = j ∧ taken = b) ∧ marks = behind := by simpa using h
    simpa using first
  | cons x ahead =>
    obtain ⟨rfl, h'⟩ : (k, taken) = x ∧ marks = ahead ++ (j, b) :: behind := by simpa using h
    rw [m ahead j b behind h']
    subst head
    refine forall_congr' fun c => imp_congr_right fun _ => ?_
    rw [chan]
    cases taken <;> cases placed <;> simp <;> tauto

/-- Nothing that has an owner is granted, so it stays as it was. -/
theorem walk_spec (ks : List Claim) : ∀ (placed : Bool) (kept : List Claim) (s : State),
    ∃ granted rest, Walked ks placed kept s (State.walk ks placed kept s) granted rest := by
  induction ks with
  | nil =>
    intro placed kept s
    refine ⟨[], [], .slnil, .slnil, .refl _, by simp [State.walk], ?_, ?_, by simp, ?_, by simp, by simp, by simp,
      [], rfl, marksGranted_nil _ _, rfl, rfl⟩
    · intro x hx
      cases x <;> simp [Part.Same, State.walk] at hx ⊢
    · exact handed_congr fun _ => rfl
    · intro c _
      simp [State.walk]
      rfl
  | cons k ks ih =>
    intro placed kept s
    unfold State.walk
    by_cases hf : s.allFree k.set
    · rw [if_pos hf]
      have hfree := allFree_iff.1 hf
      let u := (s.grant k.port k.set).notify k.port (.granted k.tag k.set)
      have hu : ∀ c, u.chan c =
          if inSet k.set c then (s.chan c).grant k.port (s.running k.port) (s.bankOk c) else s.chan c := by
        intro c
        simp [u, chan_grant]
      have hrun : ∀ q, u.running q = s.running q := fun q => by simp [u, State.grant]
      have hbank : ∀ c, u.bankOk c = s.bankOk c := fun c => by simp [u, State.grant]
      have hown : ∀ c, inSet k.set c → (u.chan c).own = .owned k.port := fun c hc => by simp [hu, hc]
      obtain ⟨granted, rest, w⟩ := ih placed kept u
      have disj : ∀ j ∈ granted, ∀ c, inSet j.set c → inSet k.set c = false := by
        intro j hj c hc
        by_contra hk
        have := w.free j hj c hc
        rw [hown c (by simpa using hk)] at this
        cases this
      have same₁ : SameBut [.chans, .claims, .queues] s u :=
        SameBut.trans ((sameBut_mapChans s _).weaken (by simp)) ((sameBut_notify _ _ _).weaken (by simp))
      refine ⟨k :: granted, rest, w.granted_sub.cons_cons k, w.rest_sub.cons k, ?_, w.claims,
        same₁.trans w.same, ?_, ?_, ?_, w.blocked, ?_, ?_, ?_⟩
      · simpa using w.perm
      · have h₁ : Handed s u [(k.port, .granted k.tag k.set)] := by
          exact handed_append (handed_congr fun p => by simp [State.grant])
            (handed_notifyAll (s.grant k.port k.set) [(k.port, .granted k.tag k.set)]) (fun p => by simp [State.grant])
            (by simp [State.grant])
        have := handed_append h₁ w.handed (fun p => by simp [u, State.grant]) (by simp [u, State.grant])
        simpa using this
      · intro j hj c hc
        rcases List.mem_cons.1 hj with rfl | hj
        · have g : ∀ i ∈ granted, inSet i.set c = false := by
            intro i hi
            by_contra h
            have := disj i hi c (by simpa using h)
            simp [hc] at this
          rw [w.other c g]
          rw [hu c, if_pos hc]
          simp
        · rw [w.taken j hj c hc, hu c, if_neg (by simp [disj j hj c hc]), hrun, hbank]
      · intro c hc
        have hk : inSet k.set c = false := hc k (by simp)
        rw [w.other c fun j hj => hc j (by simp [hj])]
        simp [hu, hk]
      · intro hp hr j hj
        refine w.headBlocked hp ?_ j hj
        intro c
        rw [hu c]
        split
        · simp
        · exact hr c
      · intro j hj c hc
        rcases List.mem_cons.1 hj with rfl | hj
        · exact hfree c hc
        · have := w.free j hj c hc
          rw [hu c, if_neg (by simp [disj j hj c hc])] at this
          exact this
      · obtain ⟨marks, h₁, h₂, h₃, h₄⟩ := w.marks
        refine ⟨(k, true) :: marks, by simp [h₁], marksGranted_cons (by simpa using hfree) ?_ (by simp) h₂,
          by simp [h₃], by simp [h₄]⟩
        intro c
        rw [hu c]
        by_cases hc : inSet k.set c <;> simp [hc]
    · rw [if_neg hf]
      have hblock : ∃ c, inSet k.set c ∧ (s.chan c).own ≠ .free := by
        by_contra h
        push Not at h
        exact hf (allFree_iff.2 h)
      cases placed with
      | true =>
        simp only [if_true]
        obtain ⟨granted, rest, w⟩ := ih true (kept ++ [k]) s
        refine ⟨granted, k :: rest, w.granted_sub.cons k, w.rest_sub.cons_cons k, ?_, ?_, w.same, w.handed,
          w.taken, ?_, ?_, by simp, w.free, ?_⟩
        · exact List.perm_middle.trans (w.perm.cons k)
        · simp [w.claims]
        · intro c hc
          simpa using w.other c hc
        · intro j hj
          rcases List.mem_cons.1 hj with rfl | hj
          · obtain ⟨c, hc, hn⟩ := hblock
            exact ⟨c, hc, notFree_of_notFree w hn⟩
          · exact w.blocked j hj
        · obtain ⟨marks, h₁, h₂, h₃, h₄⟩ := w.marks
          exact ⟨(k, false) :: marks, by simp [h₁], marksGranted_cons (by simpa using hblock) (by simp) (by simp) h₂,
            by simp [h₃], by simp [h₄]⟩
      | false =>
        simp only [Bool.false_eq_true, if_false]
        obtain ⟨granted, rest, w⟩ := ih true (kept ++ [k]) (s.reserve k.set)
        have hrun : ∀ q, (s.reserve k.set).running q = s.running q := fun q => rfl
        have hbank : ∀ c, (s.reserve k.set).bankOk c = s.bankOk c := fun c => rfl
        have hkeep : ∀ j ∈ granted, ∀ c, inSet j.set c →
            inSet k.set c = false ∧ (s.chan c).own = .free := by
          intro j hj c hc
          have := w.free j hj c hc
          rw [chan_reserve] at this
          split at this
          · cases this
          · next h =>
            refine ⟨?_, this⟩
            by_contra hk
            exact h ⟨by simpa using hk, this⟩
        have hown : ∀ c, (s.chan c).owner.isSome → ((State.walk ks true (kept ++ [k]) (s.reserve k.set)).chan c).owner =
            (s.chan c).owner := by
          intro c hc
          have g : ∀ j ∈ granted, inSet j.set c = false := by
            intro j hj
            by_contra h
            have := (hkeep j hj c (by simpa using h)).2
            simp [Chan.owner, this] at hc
          have e : ¬(inSet k.set c ∧ (s.chan c).own = .free) := by
            rintro ⟨-, h⟩
            simp [Chan.owner, h] at hc
          have x := w.other c g
          simp only [Bool.true_eq_false, false_and, if_false] at x
          rw [x, chan_reserve, if_neg e]
        refine ⟨granted, k :: rest, w.granted_sub.cons k, w.rest_sub.cons_cons k, ?_, ?_, ?_, ?_,
          ?_, ?_, ?_, ?_, fun j hj c hc => (hkeep j hj c hc).2, ?_⟩
        · exact List.perm_middle.trans (w.perm.cons k)
        · simp [w.claims]
        · exact SameBut.trans ((sameBut_mapChans s _).weaken (by simp)) w.same
        · exact handed_append (handed_congr fun p => by simp [State.reserve]) w.handed (fun p => by simp [State.reserve])
            (by simp [State.reserve])
        · intro j hj c hc
          rw [w.taken j hj c hc, chan_reserve, hrun, hbank, if_neg]
          rintro ⟨h, -⟩
          simp [(hkeep j hj c hc).1] at h
        · intro c hc
          have x := w.other c hc
          simp only [Bool.true_eq_false, false_and, if_false] at x
          rw [x, chan_reserve]
          simp
        · intro j hj
          rcases List.mem_cons.1 hj with rfl | hj
          · obtain ⟨c, hc, hn⟩ := hblock
            refine ⟨c, hc, notFree_of_notFree w ?_⟩
            rw [chan_reserve]
            split
            · simp
            · exact hn
          · exact w.blocked j hj
        · intro _ hr j hj
          obtain rfl : k = j := by simpa using hj
          obtain ⟨c, hc, hn⟩ := hblock
          have : (s.chan c).owner.isSome := by
            have := hr c
            unfold Chan.owner
            cases h : (s.chan c).own <;> simp_all
          exact ⟨c, hc, by rw [hown c this]; exact this⟩
        · obtain ⟨marks, h₁, h₂, h₃, h₄⟩ := w.marks
          refine ⟨(k, false) :: marks, by simp [h₁], marksGranted_cons (by simpa using hblock) ?_ (by simp) h₂,
            by simp [h₃], by simp [h₄]⟩
          intro c
          rw [chan_reserve]
          by_cases hc : inSet k.set c <;> by_cases hn : (s.chan c).own = .free <;> simp [hc, hn]

/-! ## The grant pass -/

theorem grantPass_walked (s : State) :
    ∃ granted rest, Walked s.claims false [] s.clearReservations s.grantPass granted rest :=
  walk_spec _ _ _ _

theorem own_clearReservations (s : State) (c : Channel) :
    (s.clearReservations.chan c).own = if (s.chan c).own = .reserved then .free else (s.chan c).own := by
  rw [chan_clearReservations]
  split <;> simp_all

theorem not_reserved_clearReservations (s : State) (c : Channel) : (s.clearReservations.chan c).own ≠ .reserved := by
  rw [own_clearReservations]
  split <;> simp_all

theorem sameBut_grantPass (s : State) : SameBut [.chans, .claims, .queues] s s.grantPass := by
  obtain ⟨granted, rest, w⟩ := grantPass_walked s
  exact SameBut.trans ((sameBut_mapChans s _).weaken (by simp)) w.same

@[simp] theorem arrivals_grantPass (s : State) : s.grantPass.arrivals = s.arrivals := sameBut_grantPass s .arrivals (by simp)
@[simp] theorem sessions_grantPass (s : State) : s.grantPass.sessions = s.sessions := sameBut_grantPass s .sessions (by simp)
@[simp] theorem epochCounter_grantPass (s : State) : s.grantPass.epochCounter = s.epochCounter :=
  sameBut_grantPass s .epochCounter (by simp)
@[simp] theorem ceilings_grantPass (s : State) : s.grantPass.ceilings = s.ceilings := sameBut_grantPass s .ceilings (by simp)
@[simp] theorem banks_grantPass (s : State) : s.grantPass.banks = s.banks := sameBut_grantPass s .banks (by simp)
@[simp] theorem cal_grantPass (s : State) : s.grantPass.cal = s.cal := sameBut_grantPass s .cal (by simp)
@[simp] theorem store_grantPass (s : State) : s.grantPass.store = s.store := sameBut_grantPass s .store (by simp)
@[simp] theorem timebase_grantPass (s : State) : s.grantPass.timebase = s.timebase := sameBut_grantPass s .timebase (by simp)
@[simp] theorem ports_grantPass (s : State) : s.grantPass.ports = s.ports := sameBut_grantPass s .ports (by simp)
@[simp] theorem starting_grantPass (s : State) : s.grantPass.starting = s.starting := sameBut_grantPass s .starting (by simp)
@[simp] theorem resetAsserted_grantPass (s : State) : s.grantPass.resetAsserted = s.resetAsserted :=
  sameBut_grantPass s .resetAsserted (by simp)
@[simp] theorem stepDue_grantPass (s : State) : s.grantPass.stepDue = s.stepDue := sameBut_grantPass s .stepDue (by simp)
@[simp] theorem waitsDue_grantPass (s : State) : s.grantPass.waitsDue = s.waitsDue := sameBut_grantPass s .waitsDue (by simp)
@[simp] theorem leasesDue_grantPass (s : State) : s.grantPass.leasesDue = s.leasesDue := sameBut_grantPass s .leasesDue (by simp)
@[simp] theorem renewed_grantPass (s : State) : s.grantPass.renewed = s.renewed := sameBut_grantPass s .renewed (by simp)
@[simp] theorem pending_grantPass (s : State) : s.grantPass.pending = s.pending := sameBut_grantPass s .pending (by simp)
@[simp] theorem session_grantPass (s : State) (p : Port) : s.grantPass.session p = s.session p := by simp [State.session]
@[simp] theorem bank_grantPass (s : State) (b : Bank) : s.grantPass.bank b = s.bank b := by simp [State.bank]
@[simp] theorem port_grantPass (s : State) (p : Port) : s.grantPass.port p = s.port p := by simp [State.port]
@[simp] theorem bankOk_grantPass (s : State) (c : Channel) : s.grantPass.bankOk c = s.bankOk c := by simp [State.bankOk]
@[simp] theorem sessionOpen_grantPass (s : State) (p : Port) : s.grantPass.sessionOpen p = s.sessionOpen p := by
  simp [State.sessionOpen]
@[simp] theorem running_grantPass (s : State) (p : Port) : s.grantPass.running p = s.running p := by simp [State.running]
@[simp] theorem calNames_grantPass (s : State) (c : Channel) : s.grantPass.calNames c = s.calNames c := by
  simp [State.calNames]

theorem claims_grantPass_sublist (s : State) : s.grantPass.claims.Sublist s.claims := by
  obtain ⟨granted, rest, w⟩ := grantPass_walked s
  rw [w.claims]
  simpa using w.rest_sub

/-- An owned channel is left alone by the grant pass: it takes ownerless channels only (R28). -/
theorem chan_grantPass_owned (s : State) {c : Channel} {p : Port} (h : (s.chan c).own = .owned p) :
    s.grantPass.chan c = s.chan c := by
  obtain ⟨granted, rest, w⟩ := grantPass_walked s
  have e : s.clearReservations.chan c = s.chan c := by rw [chan_clearReservations, if_neg (by simp [h])]
  have g : ∀ k ∈ granted, inSet k.set c = false := by
    intro k hk
    by_contra hc
    have := w.free k hk c (by simpa using hc)
    rw [e, h] at this
    cases this
  rw [w.other c g, e]
  simp [h]

/-- Every channel after the grant pass: granted to a claim that was pending, or as it was with its ownership FREE or
RESERVED, or owned and untouched (R28). -/
theorem chan_grantPass_cases (s : State) (c : Channel) :
    (∃ k ∈ s.claims, inSet k.set c ∧
      s.grantPass.chan c = (s.chan c).grant k.port (s.running k.port) (s.bankOk c) ∧
      ((s.chan c).own = .free ∨ (s.chan c).own = .reserved)) ∨
    ∃ o, s.grantPass.chan c = { s.chan c with own := o } ∧
      (o = (s.chan c).own ∨ ((o = .free ∨ o = .reserved) ∧ ((s.chan c).own = .free ∨ (s.chan c).own = .reserved))) := by
  obtain ⟨granted, rest, w⟩ := grantPass_walked s
  by_cases g : ∃ k ∈ granted, inSet k.set c
  · obtain ⟨k, hk, hc⟩ := g
    left
    refine ⟨k, w.granted_sub.subset hk, hc, ?_, ?_⟩
    · rw [w.taken k hk c hc, chan_clearReservations]
      split <;> rfl
    · have := w.free k hk c hc
      rw [own_clearReservations] at this
      split at this <;> simp_all
  · right
    have g' : ∀ k ∈ granted, inSet k.set c = false := by
      intro k hk
      by_contra hc
      exact g ⟨k, hk, by simpa using hc⟩
    have e : s.clearReservations.chan c =
        { s.chan c with own := if (s.chan c).own = .reserved then .free else (s.chan c).own } := by
      rw [chan_clearReservations]
      split <;> rfl
    have x := w.other c g'
    split at x
    · next m =>
      refine ⟨.reserved, by rw [x, e], .inr ⟨.inr rfl, ?_⟩⟩
      have := m.2.2
      rw [own_clearReservations] at this
      split at this <;> simp_all
    · refine ⟨_, by rw [x, e], ?_⟩
      split <;> simp_all

theorem wantedByHead_iff {s : State} {c : Channel} :
    s.wantedByHead c ↔ (∃ k, s.claims.head? = some k ∧ inSet k.set c) ∧ (s.chan c).owner = none := by
  unfold State.wantedByHead State.reservedByHead
  cases s.claims <;> simp [Option.isNone_iff_eq_none]

/-- After a grant pass the head alone reserves (R24, R28). -/
theorem grantPass_reservedForHead (s : State) : s.grantPass.ReservedForHead := by
  obtain ⟨granted, rest, w⟩ := grantPass_walked s
  intro c
  rw [wantedByHead_iff]
  have hd : s.grantPass.claims.head? = rest.head? := by rw [w.claims]; rfl
  rw [hd]
  by_cases g : ∃ k ∈ granted, inSet k.set c
  · obtain ⟨k, hk, hc⟩ := g
    simp [w.taken k hk c hc, Chan.owner]
  · have g' : ∀ k ∈ granted, inSet k.set c = false := by
      intro k hk
      by_contra hc
      exact g ⟨k, hk, by simpa using hc⟩
    have x := w.other c g'
    have n := not_reserved_clearReservations s c
    rw [x]
    by_cases m : (∃ k, rest.head? = some k ∧ inSet k.set c) ∧ (s.clearReservations.chan c).own = .free
    · rw [if_pos ⟨rfl, m.1, m.2⟩]
      simp [m.1, Chan.owner]
    · rw [if_neg (by rintro ⟨-, h₁, h₂⟩; exact m ⟨h₁, h₂⟩)]
      constructor
      · intro h
        exact absurd h n
      · rintro ⟨h₁, h₂⟩
        rcases owner_eq_none.1 h₂ with h | h
        · exact absurd ⟨h₁, h⟩ m
        · exact absurd h n

/-- After a grant pass no claim is grantable (R28). -/
theorem grantPass_not_grantable (s : State) (k : Claim) : ¬s.grantPass.GrantableClaim k := by
  obtain ⟨granted, rest, w⟩ := grantPass_walked s
  rintro ⟨hk, h⟩
  have hc : s.grantPass.claims = rest := by simpa using w.claims
  rw [hc] at hk h
  by_cases e : rest.head? = some k
  · obtain ⟨c, hc, ho⟩ := w.headBlocked rfl (not_reserved_clearReservations s) k e
    rcases h c hc with x | ⟨x, -⟩ <;> simp [Chan.owner, x] at ho
  · obtain ⟨c, hc, ho⟩ := w.blocked k hk
    rcases h c hc with x | ⟨-, x⟩
    · exact ho x
    · exact e x

/-! ## Ports play no part -/

/-- The state with other ports. -/
def State.withPorts (s : State) (v : Vector PortState 4) : State := { s with ports := v }

theorem modPort_eq_withPorts (s : State) (p : Port) (f : PortState → PortState) :
    s.modPort p f = s.withPorts (s.modPort p f).ports := rfl

theorem notify_withPorts (s : State) (v : Vector PortState 4) (p : Port) (b : NoteBody) :
    (s.withPorts v).notify p b = (s.notify p b).withPorts v := by
  unfold State.notify
  by_cases h : s.sessionOpen p
  · rw [if_pos h, if_pos (show (s.withPorts v).sessionOpen p from h)]
    rfl
  · rw [if_neg h, if_neg (show ¬(s.withPorts v).sessionOpen p from h)]

theorem notifyAll_withPorts (l : List (Port × NoteBody)) (v : Vector PortState 4) : ∀ s : State,
    (s.withPorts v).notifyAll l = (s.notifyAll l).withPorts v := by
  induction l with
  | nil => intro s; rfl
  | cons x l ih =>
    intro s
    rw [notifyAll_cons, notify_withPorts, ih, notifyAll_cons]

theorem walk_withPorts (ks : List Claim) (v : Vector PortState 4) : ∀ (placed : Bool) (kept : List Claim) (s : State),
    State.walk ks placed kept (s.withPorts v) = (State.walk ks placed kept s).withPorts v := by
  induction ks with
  | nil => intros; rfl
  | cons k ks ih =>
    intro placed kept s
    have e : (s.withPorts v).allFree k.set = s.allFree k.set := rfl
    unfold State.walk
    by_cases hf : s.allFree k.set
    · rw [if_pos hf, if_pos (e ▸ hf), ← ih, ← notify_withPorts]
      rfl
    · rw [if_neg hf, if_neg (e ▸ hf)]
      cases placed
      · exact ih true (kept ++ [k]) (s.reserve k.set)
      · exact ih true (kept ++ [k]) s

/-- The grant pass does not read or change a port. -/
theorem grantPass_withPorts (s : State) (v : Vector PortState 4) :
    (s.withPorts v).grantPass = s.grantPass.withPorts v :=
  walk_withPorts s.claims v false [] s.clearReservations

theorem sameBut_withPorts (s : State) (v : Vector PortState 4) : SameBut [.ports] s (s.withPorts v) := by
  intro x hx
  cases x <;> simp [Part.Same, State.withPorts] at hx ⊢

end Sys2Proof.Machine
end

