-- ==== Sys2Proof/Laws/Blocks.lean ====
section
/-! SUPPORT. What each block's update of the state changes, and that the port's part of a request leaves the blocks alone. -/

namespace Sys2Proof.Machine

variable (s : State) (p : Port)

/-! ## The selection and the answer change one port alone -/

@[simp] theorem chans_newSelection : (s.newSelection p).chans = s.chans := rfl
@[simp] theorem claims_newSelection : (s.newSelection p).claims = s.claims := rfl
@[simp] theorem arrivals_newSelection : (s.newSelection p).arrivals = s.arrivals := rfl
@[simp] theorem sessions_newSelection : (s.newSelection p).sessions = s.sessions := rfl
@[simp] theorem epochCounter_newSelection : (s.newSelection p).epochCounter = s.epochCounter := rfl
@[simp] theorem ceilings_newSelection : (s.newSelection p).ceilings = s.ceilings := rfl
@[simp] theorem banks_newSelection : (s.newSelection p).banks = s.banks := rfl
@[simp] theorem cal_newSelection : (s.newSelection p).cal = s.cal := rfl
@[simp] theorem store_newSelection : (s.newSelection p).store = s.store := rfl
@[simp] theorem timebase_newSelection : (s.newSelection p).timebase = s.timebase := rfl
@[simp] theorem queues_newSelection : (s.newSelection p).queues = s.queues := rfl
@[simp] theorem starting_newSelection : (s.newSelection p).starting = s.starting := rfl
@[simp] theorem resetAsserted_newSelection : (s.newSelection p).resetAsserted = s.resetAsserted := rfl
@[simp] theorem stepDue_newSelection : (s.newSelection p).stepDue = s.stepDue := rfl
@[simp] theorem waitsDue_newSelection : (s.newSelection p).waitsDue = s.waitsDue := rfl
@[simp] theorem leasesDue_newSelection : (s.newSelection p).leasesDue = s.leasesDue := rfl
@[simp] theorem renewed_newSelection : (s.newSelection p).renewed = s.renewed := rfl
@[simp] theorem pending_newSelection : (s.newSelection p).pending = s.pending := rfl
@[simp] theorem chan_newSelection (c : Channel) : (s.newSelection p).chan c = s.chan c := rfl
@[simp] theorem session_newSelection (q : Port) : (s.newSelection p).session q = s.session q := rfl
@[simp] theorem bank_newSelection (e : Bank) : (s.newSelection p).bank e = s.bank e := rfl
@[simp] theorem queue_newSelection (q : Port) : (s.newSelection p).queue q = s.queue q := rfl
@[simp] theorem ceiling_newSelection (q : Port) : (s.newSelection p).ceiling q = s.ceiling q := rfl
@[simp] theorem cell_newSelection (c : Channel) (d : DriveRange) : (s.newSelection p).cell c d = s.cell c d := rfl
@[simp] theorem bankOk_newSelection (c : Channel) : (s.newSelection p).bankOk c = s.bankOk c := rfl
@[simp] theorem sessionOpen_newSelection (q : Port) : (s.newSelection p).sessionOpen q = s.sessionOpen q := rfl
@[simp] theorem running_newSelection (q : Port) : (s.newSelection p).running q = s.running q := rfl
@[simp] theorem calNames_newSelection (c : Channel) : (s.newSelection p).calNames c = s.calNames c := rfl
@[simp] theorem holdsCal_newSelection (q : Port) : (s.newSelection p).holdsCal q = s.holdsCal q := rfl
@[simp] theorem ownsClaim_newSelection (q : Port) (k : Claim) : (s.newSelection p).ownsClaim q k = s.ownsClaim q k := rfl
@[simp] theorem note_newSelection (x : NoteBody) : (s.newSelection p).note x = s.note x := rfl
@[simp] theorem reservedByHead_newSelection (c : Channel) : (s.newSelection p).reservedByHead c = s.reservedByHead c := rfl
@[simp] theorem calValue_newSelection (c : Channel) : (s.newSelection p).calValue c = s.calValue c := rfl
@[simp] theorem claimsOf_newSelection (q : Port) : (s.newSelection p).claimsOf q = s.claimsOf q := rfl
@[simp] theorem heldContext_newSelection (q : Port) : (s.newSelection p).heldContext q = s.heldContext q := rfl

@[simp] theorem chans_complete (kind seq : Byte) (r : Reply) : (s.complete p kind seq r).chans = s.chans := rfl
@[simp] theorem claims_complete (kind seq : Byte) (r : Reply) : (s.complete p kind seq r).claims = s.claims := rfl
@[simp] theorem arrivals_complete (kind seq : Byte) (r : Reply) : (s.complete p kind seq r).arrivals = s.arrivals := rfl
@[simp] theorem sessions_complete (kind seq : Byte) (r : Reply) : (s.complete p kind seq r).sessions = s.sessions := rfl
@[simp] theorem epochCounter_complete (kind seq : Byte) (r : Reply) : (s.complete p kind seq r).epochCounter = s.epochCounter := rfl
@[simp] theorem ceilings_complete (kind seq : Byte) (r : Reply) : (s.complete p kind seq r).ceilings = s.ceilings := rfl
@[simp] theorem banks_complete (kind seq : Byte) (r : Reply) : (s.complete p kind seq r).banks = s.banks := rfl
@[simp] theorem cal_complete (kind seq : Byte) (r : Reply) : (s.complete p kind seq r).cal = s.cal := rfl
@[simp] theorem store_complete (kind seq : Byte) (r : Reply) : (s.complete p kind seq r).store = s.store := rfl
@[simp] theorem timebase_complete (kind seq : Byte) (r : Reply) : (s.complete p kind seq r).timebase = s.timebase := rfl
@[simp] theorem queues_complete (kind seq : Byte) (r : Reply) : (s.complete p kind seq r).queues = s.queues := rfl
@[simp] theorem starting_complete (kind seq : Byte) (r : Reply) : (s.complete p kind seq r).starting = s.starting := rfl
@[simp] theorem resetAsserted_complete (kind seq : Byte) (r : Reply) : (s.complete p kind seq r).resetAsserted = s.resetAsserted := rfl
@[simp] theorem stepDue_complete (kind seq : Byte) (r : Reply) : (s.complete p kind seq r).stepDue = s.stepDue := rfl
@[simp] theorem waitsDue_complete (kind seq : Byte) (r : Reply) : (s.complete p kind seq r).waitsDue = s.waitsDue := rfl
@[simp] theorem leasesDue_complete (kind seq : Byte) (r : Reply) : (s.complete p kind seq r).leasesDue = s.leasesDue := rfl
@[simp] theorem renewed_complete (kind seq : Byte) (r : Reply) : (s.complete p kind seq r).renewed = s.renewed := rfl
@[simp] theorem pending_complete (kind seq : Byte) (r : Reply) : (s.complete p kind seq r).pending = s.pending := rfl
@[simp] theorem chan_complete (kind seq : Byte) (r : Reply) (c : Channel) :
    (s.complete p kind seq r).chan c = s.chan c := rfl
@[simp] theorem session_complete (kind seq : Byte) (r : Reply) (q : Port) :
    (s.complete p kind seq r).session q = s.session q := rfl
@[simp] theorem bank_complete (kind seq : Byte) (r : Reply) (e : Bank) :
    (s.complete p kind seq r).bank e = s.bank e := rfl
@[simp] theorem queue_complete (kind seq : Byte) (r : Reply) (q : Port) :
    (s.complete p kind seq r).queue q = s.queue q := rfl
@[simp] theorem ceiling_complete (kind seq : Byte) (r : Reply) (q : Port) :
    (s.complete p kind seq r).ceiling q = s.ceiling q := rfl
@[simp] theorem cell_complete (kind seq : Byte) (r : Reply) (c : Channel) (d : DriveRange) :
    (s.complete p kind seq r).cell c d = s.cell c d := rfl
@[simp] theorem bankOk_complete (kind seq : Byte) (r : Reply) (c : Channel) :
    (s.complete p kind seq r).bankOk c = s.bankOk c := rfl
@[simp] theorem sessionOpen_complete (kind seq : Byte) (r : Reply) (q : Port) :
    (s.complete p kind seq r).sessionOpen q = s.sessionOpen q := rfl
@[simp] theorem running_complete (kind seq : Byte) (r : Reply) (q : Port) :
    (s.complete p kind seq r).running q = s.running q := rfl
@[simp] theorem calNames_complete (kind seq : Byte) (r : Reply) (c : Channel) :
    (s.complete p kind seq r).calNames c = s.calNames c := rfl
@[simp] theorem holdsCal_complete (kind seq : Byte) (r : Reply) (q : Port) :
    (s.complete p kind seq r).holdsCal q = s.holdsCal q := rfl
@[simp] theorem ownsClaim_complete (kind seq : Byte) (r : Reply) (q : Port) (k : Claim) :
    (s.complete p kind seq r).ownsClaim q k = s.ownsClaim q k := rfl
@[simp] theorem note_complete (kind seq : Byte) (r : Reply) (x : NoteBody) :
    (s.complete p kind seq r).note x = s.note x := rfl
@[simp] theorem reservedByHead_complete (kind seq : Byte) (r : Reply) (c : Channel) :
    (s.complete p kind seq r).reservedByHead c = s.reservedByHead c := rfl
@[simp] theorem calValue_complete (kind seq : Byte) (r : Reply) (c : Channel) :
    (s.complete p kind seq r).calValue c = s.calValue c := rfl
@[simp] theorem claimsOf_complete (kind seq : Byte) (r : Reply) (q : Port) :
    (s.complete p kind seq r).claimsOf q = s.claimsOf q := rfl
@[simp] theorem heldContext_complete (kind seq : Byte) (r : Reply) (q : Port) :
    (s.complete p kind seq r).heldContext q = s.heldContext q := rfl

theorem newSelection_eq : s.newSelection p = s.withPorts (s.newSelection p).ports := rfl

theorem complete_eq (kind seq : Byte) (r : Reply) :
    s.complete p kind seq r = s.withPorts (s.complete p kind seq r).ports := rfl

/-! ## Sessions -/

/-- The accepted OPEN: its session, its queue and the epoch counter (R59). -/
@[simp] theorem session_openAs (pr le : Nat) (q : Port) :
    (s.openAs p pr le).session q =
      if p = q then
        { state := .idle, epoch := nextEpoch s.epochCounter, priority := min pr (s.ceiling p), lease := le, counter := le }
      else s.session q := by
  simp [State.openAs, State.session, State.modSession, State.modQueue, Vector.getElem_set, Fin.ext_iff]

@[simp] theorem queue_openAs (pr le : Nat) (q : Port) :
    (s.openAs p pr le).queue q = if p = q then [] else s.queue q := by
  simp [State.openAs, State.queue, State.modSession, State.modQueue, Vector.getElem_set, Fin.ext_iff]

theorem renewed_openAs (pr le : Nat) : (s.openAs p pr le).renewed = s.renewed.set p false := rfl

theorem sameBut_openAs (pr le : Nat) :
    SameBut [.sessions, .epochCounter, .queues, .renewed] s (s.openAs p pr le) := by
  intro x hx
  cases x <;> simp [Part.Same, State.openAs] at hx ⊢

/-- The end of a session: its context and its queue (R71, R72). -/
@[simp] theorem session_clearSession (q : Port) :
    (s.clearSession p).session q = if p = q then .closedContext else s.session q := by
  simp [State.clearSession]

@[simp] theorem queue_clearSession (q : Port) : (s.clearSession p).queue q = if p = q then [] else s.queue q := by
  simp [State.clearSession]

theorem sameBut_clearSession : SameBut [.sessions, .queues] s (s.clearSession p) := by
  intro x hx
  cases x <;> simp [Part.Same, State.clearSession] at hx ⊢

/-- The lease renewed (R66). -/
@[simp] theorem session_refreshLease (q : Port) :
    (s.refreshLease p).session q =
      if p = q then { s.session p with counter := (s.session p).lease } else s.session q := by
  have h := session_modSession s p (fun x => { x with counter := x.lease }) q
  simpa only [State.refreshLease, State.session] using h

theorem renewed_refreshLease :
    (s.refreshLease p).renewed = if s.unitDue || s.leasesDue then s.renewed.set p true else s.renewed := rfl

theorem sameBut_refreshLease : SameBut [.sessions, .renewed] s (s.refreshLease p) := by
  intro x hx
  cases x <;> simp [Part.Same, State.refreshLease] at hx ⊢

/-- MODE RUN and MODE IDLE (R63, R64). -/
@[simp] theorem session_goRun (q : Port) :
    (s.goRun p).session q = if p = q then { s.session p with state := .run } else s.session q := by
  simp [State.goRun]

@[simp] theorem chan_goRun (c : Channel) :
    (s.goRun p).chan c = if (s.chan c).own = .owned p then (s.chan c).handover (s.bankOk c) else s.chan c := by
  by_cases h : (s.chan c).own = .owned p <;> simp [State.goRun, Chan.ownedBy, h]

@[simp] theorem session_goIdle (q : Port) :
    (s.goIdle p).session q = if p = q then { s.session p with state := .idle } else s.session q := by
  simp [State.goIdle]

@[simp] theorem chan_goIdle (c : Channel) :
    (s.goIdle p).chan c =
      if (s.chan c).own = .owned p then (s.chan c).force (s.bankOk c) (s.chan c).config.idleAction else s.chan c := by
  by_cases h : (s.chan c).own = .owned p <;> simp [State.goIdle, Chan.ownedBy, h]

theorem sameBut_goRun : SameBut [.sessions, .chans] s (s.goRun p) := by
  intro x hx
  cases x <;> simp [Part.Same, State.goRun] at hx ⊢

theorem sameBut_goIdle : SameBut [.sessions, .chans] s (s.goIdle p) := by
  intro x hx
  cases x <;> simp [Part.Same, State.goIdle] at hx ⊢

/-! ## Calibration -/

/-- The context changed, its channel at the value its phase gives (R82). -/
@[simp] theorem cal_setCal (x : CalContext) : (s.setCal x).cal = some x := rfl

@[simp] theorem chan_setCal (x : CalContext) (c : Channel) :
    (s.setCal x).chan c = if x.channel = c then { s.chan x.channel with applied := x.driven } else s.chan c := by
  simp [State.setCal, State.chan, State.modChan, Vector.getElem_set, Fin.ext_iff]

theorem sameBut_setCal (x : CalContext) : SameBut [.cal, .chans] s (s.setCal x) := by
  intro y hy
  cases y <;> simp [Part.Same, State.setCal] at hy ⊢

/-- The context closed, its channel forced with its idle action (R102). -/
@[simp] theorem cal_closeCal (c₀ : Channel) : (s.closeCal c₀).cal = none := rfl

@[simp] theorem chan_closeCal (c₀ c : Channel) :
    (s.closeCal c₀).chan c =
      if c₀ = c then (s.chan c₀).force (s.bankOk c₀) (s.chan c₀).config.idleAction else s.chan c := by
  simp [State.closeCal, State.chan, State.modChan, Vector.getElem_set, Fin.ext_iff]

theorem sameBut_closeCal (c₀ : Channel) : SameBut [.cal, .chans] s (s.closeCal c₀) := by
  intro y hy
  cases y <;> simp [Part.Same, State.closeCal] at hy ⊢

/-- The context opened, its channel CALIBRATING (R141). -/
@[simp] theorem chan_beginCal (x : CalContext) (c : Channel) :
    (s.beginCal x).chan c =
      if x.channel = c then
        { s.chan x.channel with drive := .calibrating, forced := none, held := none, timer := none }
      else s.chan c := by
  simp [State.beginCal, State.chan, State.modChan, Vector.getElem_set, Fin.ext_iff]

theorem sameBut_beginCal (x : CalContext) : SameBut [.cal, .chans] s (s.beginCal x) := by
  intro y hy
  cases y <;> simp [Part.Same, State.beginCal] at hy ⊢

/-! ## Channels -/

/-- Targets stored (R92). -/
theorem chan_storeTargets (l : List (Channel × Int)) (c : Channel) :
    (s.storeTargets l).chan c =
      match l.find? fun x => decide (x.1 = c) with
      | some x => { s.chan c with target := some (s.clampTo c x.2) }
      | none => s.chan c := by
  exact (chan_mapChans _ _ c).trans (by cases l.find? fun x => decide (x.1 = c) <;> rfl)

theorem sameBut_storeTargets (l : List (Channel × Int)) : SameBut [.chans] s (s.storeTargets l) := by
  intro y hy
  cases y <;> simp [Part.Same, State.storeTargets] at hy ⊢

/-- The configuration record replaced (R12, R14, R15). -/
theorem chan_configure (c₀ : Channel) (k : ChanConfig) (c : Channel) :
    (s.configure p c₀ k).chan c =
      if c₀ = c then
        if k.range = (s.chan c₀).config.range then { s.chan c₀ with config := k }
        else (s.chan c₀).changeRange k (s.defaultFlag c₀ k.range) (s.running p) (s.bankOk c₀)
      else s.chan c := by
  simp [State.configure]

theorem sameBut_configure (c₀ : Channel) (k : ChanConfig) : SameBut [.chans] s (s.configure p c₀ k) := by
  intro y hy
  cases y <;> simp [Part.Same, State.configure] at hy ⊢

/-! ## Withdrawal and revocation -/

/-- Steps 1 to 3 of the withdrawal (R48). -/
theorem chan_withdraw (who : Port → Bool) (pick : ChanConfig → Action) (c : Channel) :
    (s.withdraw who pick).chan c =
      match (s.chan c).own with
      | .owned q => if who q then (s.chan c).release (s.bankOk c) (pick (s.chan c).config) else s.chan c
      | .free | .reserved => s.chan c := by
  cases h : (s.chan c).own <;> simp only [State.chan, Fin.getElem_fin] at h <;>
    simp [State.withdraw, State.chan, State.mapChans, h]

theorem sameBut_withdraw (who : Port → Bool) (pick : ChanConfig → Action) :
    SameBut [.chans, .claims, .cal] s (s.withdraw who pick) := by
  intro y hy
  cases y <;> simp [Part.Same, State.withdraw] at hy ⊢

/-- Revoked channels enter FORCED with their release actions (R34). -/
theorem chan_revoke (set : ChanSet) (c : Channel) :
    (s.revoke p set).chan c =
      if inSet set c && (s.chan c).owner.isSome then (s.chan c).release (s.bankOk c) (s.chan c).config.releaseAction
      else s.chan c := by
  simp [State.revoke]

theorem sameBut_revoke (set : ChanSet) : SameBut [.chans, .queues] s (s.revoke p set) := by
  intro y hy
  cases y <;> simp [Part.Same, State.revoke] at hy ⊢

theorem sameBut_grant (set : ChanSet) : SameBut [.chans] s (s.grant p set) := sameBut_mapChans s _

/-! ## A request that its block executes -/

/-- What a request leaves that its port takes, the gate admits and its block answers: the block's effect, the answer on
the port, and nothing else (R169). -/
theorem executed_spec {α : Type} {s : State} {p : Port} {kind : Byte} {lead : List Byte} {f : Frame} {g : GateClass}
    {refusal : Payload} {operands : List Byte → Option α} {run : α → State → State × Option Reply} {a : α} {t : State}
    {r : Reply} {changed : List Part} (h : s.takes p kind lead f) (l : lead.length + f.payload.length ≤ 40)
    (o : operands f.payload = some a) (e : s.gate g p f.epoch = none)
    (b : run a (s.newSelection p) = (t, some r)) (k : SameBut changed (s.newSelection p) t) (n : Part.ports ∉ changed) :
    s.receive p kind lead f g refusal operands run = t.complete p kind f.seq r ∧
      Answered s (t.complete p kind f.seq r) p kind f r ∧
      SameBut (.ports :: changed) s (t.complete p kind f.seq r) :=
  ⟨receive_executed h l o e b, answered_complete (k .ports n),
    SameBut.trans ((sameBut_modPort _).weaken (by simp))
      (SameBut.trans (k.weaken fun x hx => by simp [hx]) (sameBut_complete.weaken (by simp)))⟩

/-- A request that its block answers without changing anything (R169): nothing but the answer changes. -/
theorem onlyAnswers_of_receive {α : Type} {s : State} {p : Port} {kind : Byte} {lead : List Byte} {f : Frame}
    {g : GateClass} {refusal : Payload} {operands : List Byte → Option α} {run : α → State → State × Option Reply}
    {a : α} {r : Reply} {i : Instr} (x : exec i s = .next (s.receive p kind lead f g refusal operands run))
    (h : s.takes p kind lead f) (l : lead.length + f.payload.length ≤ 40) (o : operands f.payload = some a)
    (e : s.gate g p f.epoch = none) (b : run a (s.newSelection p) = (s.newSelection p, some r)) :
    OnlyAnswers i s p kind f r := by
  obtain ⟨t, ht, h₁, h₂⟩ := receive_only (refusal := refusal) h l o e b
  exact ⟨t, by rw [x, ht], h₁, h₂⟩

/-- What a request leaves that its block answers, as a next state of the command. -/
theorem exec_executed {α : Type} {s : State} {p : Port} {kind : Byte} {lead : List Byte} {f : Frame} {g : GateClass}
    {refusal : Payload} {operands : List Byte → Option α} {run : α → State → State × Option Reply} {a : α} {t : State}
    {r : Reply} {changed : List Part} {i : Instr}
    (x : exec i s = .next (s.receive p kind lead f g refusal operands run)) (h : s.takes p kind lead f)
    (l : lead.length + f.payload.length ≤ 40) (o : operands f.payload = some a) (e : s.gate g p f.epoch = none)
    (b : run a (s.newSelection p) = (t, some r)) (k : SameBut changed (s.newSelection p) t) (n : Part.ports ∉ changed) :
    exec i s = .next (t.complete p kind f.seq r) ∧ Answered s (t.complete p kind f.seq r) p kind f r ∧
      SameBut (.ports :: changed) s (t.complete p kind f.seq r) := by
  obtain ⟨h₁, h₂, h₃⟩ := executed_spec (refusal := refusal) h l o e b k n
  exact ⟨by rw [x, h₁], h₂, h₃⟩

end Sys2Proof.Machine
end

