-- ==== Sys2Proof/Laws/Calibration.lean ====
section
/-! SUPPORT. Rounding, the holder of the calibration context, what a refused CAL step carries, and the commit. -/

namespace Sys2Proof.Machine

/-! ## Rounding -/

/-- The nearest whole number, a half away from zero (R96, R144). -/
theorem roundDiv_spec (num : Int) {den : Nat} (h : 0 < den) :
    2 * (roundDiv num den * den - num).natAbs ≤ den ∧
      (2 * (roundDiv num den * den - num).natAbs = den → num.natAbs < (roundDiv num den * den).natAbs) := by
  set q : Nat := (2 * num.natAbs + den) / (2 * den) with hq
  have e : roundDiv num den = if num < 0 then -(q : Int) else q := rfl
  have d := Nat.div_add_mod (2 * num.natAbs + den) (2 * den)
  have r := Nat.mod_lt (2 * num.natAbs + den) (show 0 < 2 * den by omega)
  rw [← hq, show 2 * den * q = 2 * (q * den) by ring] at d
  set m := (2 * num.natAbs + den) % (2 * den) with hm
  rw [e]
  split
  · rw [show -(q : Int) * den = -((q * den : Nat) : Int) by push_cast; ring]
    generalize q * den = k at *
    omega
  · rw [show (q : Int) * den = ((q * den : Nat) : Int) by push_cast; rfl]
    generalize q * den = k at *
    omega

/-! ## The check word of a slot (R147) -/

theorem Slot.disagreeing_ne (x : Slot) : x.disagreeing ≠ x.agreeing := by
  intro h
  have e := congrArg (x.agreeing ^^^ ·) h
  simp only [Slot.disagreeing, ← BitVec.xor_assoc, BitVec.xor_self, BitVec.zero_xor] at e
  split at e
  · exact absurd e (by decide)
  · contradiction

/-- A slot left by a write that failed or was interrupted is not valid (R149, R151, R154). -/
theorem Slot.not_valid_of_disagreeing (x : Slot) (c : Channel) (d : DriveRange) :
    Slot.valid c d { x with check := x.disagreeing } = false := by
  have h := x.disagreeing_ne
  simp only [Slot.valid, Slot.agreeing, Bool.and_eq_false_iff, decide_eq_false_iff_not] at h ⊢
  exact .inr (decide_eq_false h)

/-! ## The holder of the context (R140) -/

variable {s : State} {p : Port} {x : CalContext}

theorem holdsCal_of (hx : s.cal = some x) (hp : x.port = p) (he : x.epoch = (s.session p).epoch) : s.holdsCal p := by
  simp [State.holdsCal, hx, hp, he]

theorem heldContext_of_holdsCal (hx : s.cal = some x) (h : s.holdsCal p) : s.heldContext p = some x := by
  rw [State.heldContext, if_pos h, hx]

theorem heldContext_eq_none (h : s.holdsCal p = false) : s.heldContext p = none := by
  rw [State.heldContext, if_neg (by simp [h])]

/-- To its holder: channel and phase of the context. -/
theorem calRefusal_of_holdsCal (hx : s.cal = some x) (h : s.holdsCal p) (r : Result) :
    s.calRefusal p r = ⟨r, false, .cal (some x.channel) (some x.phase)⟩ := by
  simp only [State.calRefusal, hx, h, if_true]
  rfl

/-- To any other: no channel, phase NONE. -/
theorem calRefusal_of_not (h : s.holdsCal p = false) (r : Result) : s.calRefusal p r = ⟨r, false, .cal none none⟩ := by
  simp only [State.calRefusal, h]
  cases s.cal <;> rfl

@[simp] theorem calRefusal_newSelection (q : Port) (r : Result) :
    (s.newSelection q).calRefusal p r = s.calRefusal p r := rfl

@[simp] theorem beginCheck_newSelection (q : Port) (b : Byte) :
    (s.newSelection q).beginCheck p b = s.beginCheck p b := rfl

/-! ## The commit -/

theorem older_eq (k : Cell) : k.older = if k.newer = some 0 then 1 else 0 := by
  unfold Cell.older
  cases k.newer <;> simp

theorem committing_eq_some (hx : s.cal = some x) (h : x.phase = .committing) : s.committing = some x := by
  simp [State.committing, hx, Option.filter, h]

theorem committing_eq_none (h : ∀ x, s.cal = some x → x.phase ≠ .committing) : s.committing = none := by
  cases e : s.cal with
  | none => simp [State.committing, e]
  | some x => simp [State.committing, e, Option.filter, h x e]

/-- An entry into FORCED does not read the default flag. -/
theorem force_calDefault (r : Chan) (b v : Bool) (a : Action) :
    ({ r with calDefault := v } : Chan).force b a = { r.force b a with calDefault := v } := by
  unfold Chan.force Chan.actionValue
  by_cases h : r.config.range = .off
  · rw [if_pos h, if_pos h]
  · rw [if_neg h, if_neg h]
    cases b
    · rfl
    · cases a <;> rfl

/-- The port of a completed request (R169). -/
theorem port_complete (kind seq : Byte) (r : Reply) (q : Port) :
    (s.complete p kind seq r).port q =
      if p = q then
        { s.port p with
          transport := .answered (r.toResponse kind seq) false
          saved := some ⟨seq, kind, r.toResponse kind seq⟩ }
      else s.port q := by
  rw [State.complete, port_modPort]

end Sys2Proof.Machine
end

