-- ==== Sys2Proof/Laws/Claims.lean ====
section
/-! SUPPORT. The checks of CLAIM and RELEASE said in the terms of Safety, the place a claim takes in the list, and which claims a grant pass leaves. -/

namespace Sys2Proof.Machine

variable {s : State} {p : Port} {set : ChanSet}

/-! ## Checks on a set -/

theorem owner_isSome {r : Chan} : r.owner.isSome ↔ ∃ q, r.own = .owned q := by
  unfold Chan.owner
  cases r.own <;> simp

theorem and_ne_zero (a b : ChanSet) : a &&& b ≠ 0 ↔ ∃ c : Channel, inSet a c ∧ inSet b c := by
  constructor
  · intro h
    by_contra k
    push Not at k
    apply h
    apply BitVec.eq_of_getLsbD_eq
    intro i hi
    have := k ⟨i, hi⟩
    simp [inSet] at this ⊢
    exact this
  · rintro ⟨c, h₁, h₂⟩ e
    have := congrArg (fun x => x.getLsbD c.val) e
    simp [inSet] at *
    simp_all

/-- Check 2 of R31. -/
theorem overlaps_iff :
    s.overlaps p set ↔
      (∃ c, inSet set c ∧ (s.chan c).own = .owned p) ∨
        ∃ k ∈ s.claims, s.ownsClaim p k ∧ ∃ c, inSet set c ∧ inSet k.set c := by
  unfold State.overlaps State.claimsOf
  simp only [Bool.or_eq_true, List.any_eq_true, List.mem_filter, Bool.and_eq_true, mem_allChannels, true_and,
    decide_eq_true_eq, and_ne_zero, ownedBy_iff]
  constructor
  · rintro (h | ⟨k, ⟨h₁, h₂⟩, c, h₃, h₄⟩)
    · exact .inl h
    · exact .inr ⟨k, h₁, h₂, c, h₄, h₃⟩
  · rintro (h | ⟨k, h₁, h₂, c, h₃, h₄⟩)
    · exact .inl h
    · exact .inr ⟨k, ⟨h₁, h₂⟩, c, h₄, h₃⟩

/-- A claim of the session with the tag waits. -/
theorem any_claimsOf_tag {tag : Byte} :
    ((s.claimsOf p).any fun k => decide (k.tag = tag)) ↔ ∃ k ∈ s.claims, s.ownsClaim p k ∧ k.tag = tag := by
  simp [State.claimsOf]

/-- The checks of R31 as a function and as a proposition. -/
theorem claimCheck_eq_none {tag flags limit : Byte} (h : s.ClaimPasses p tag set flags) :
    s.claimCheck p ⟨tag, set, flags, limit⟩ = none := by
  have o : ¬s.overlaps p set = true := by
    rw [overlaps_iff]
    rintro (⟨c, h₁, h₂⟩ | ⟨k, h₁, h₂, c, h₃, h₄⟩)
    · exact h.notOwned c h₁ h₂
    · have := h.disjoint k h₁ h₂ c h₃
      simp [this] at h₄
  have d : ¬((s.claimsOf p).any fun k => decide (k.tag = tag)) = true := by
    rw [any_claimsOf_tag]
    rintro ⟨k, h₁, h₂, h₃⟩
    exact h.fresh k h₁ h₂ h₃
  have a : ¬(tag = 0 ∨ set = 0 ∨ 3 < flags.toNat) := by
    rintro (x | x | x)
    · exact h.tagged x
    · exact h.named x
    · exact absurd h.coded (by omega)
  unfold State.claimCheck
  rw [if_neg a, if_neg o, if_neg d]

theorem aheadOfHead_iff : s.aheadOfHead (s.session p).priority ↔ s.LeadsList p := by
  unfold State.aheadOfHead State.LeadsList
  cases s.claims <;> simp

/-- R32 case 1. -/
theorem grantable_iff : s.grantable (s.aheadOfHead (s.session p).priority) set ↔ s.GrantableAt p set := by
  unfold State.grantable State.GrantableAt
  simp only [List.all_eq_true, mem_allChannels, true_imp_iff, Bool.or_eq_true, Bool.not_eq_true']
  refine forall_congr' fun c => ?_
  rw [← aheadOfHead_iff]
  cases inSet set c <;> simp [Chan.claimable]
  cases (s.chan c).own <;> simp

/-- R33. -/
theorem preempts_iff :
    s.preempts (s.aheadOfHead (s.session p).priority) (s.session p).priority set ↔ s.PreemptionPasses p set := by
  unfold State.preempts State.PreemptionPasses
  simp only [List.all_eq_true, mem_allChannels, true_imp_iff, Bool.or_eq_true, Bool.not_eq_true']
  refine forall_congr' fun c => ?_
  rw [← aheadOfHead_iff]
  cases inSet set c <;> simp [State.preemptible, Chan.claimable]
  cases (s.chan c).own <;> simp
  tauto

/-- Check 2 of R42. -/
theorem ownsAll_iff : s.ownsAll p set ↔ ∀ c, inSet set c → (s.chan c).own = .owned p := by
  unfold State.ownsAll
  simp only [List.all_eq_true, mem_allChannels, true_imp_iff, Bool.or_eq_true, Bool.not_eq_true', ownedBy_iff]
  refine forall_congr' fun c => ?_
  cases inSet set c <;> simp

/-- The set of the channels listed. -/
theorem inSet_chanSetOf (l : List Channel) (c : Channel) : inSet (chanSetOf l) c = l.contains c := by
  have g : ∀ (l : List Channel) (a : ChanSet),
      inSet (l.foldl (fun a c => a ||| BitVec.twoPow 16 c.val) a) c = (inSet a c || l.contains c) := by
    intro l
    induction l with
    | nil => simp
    | cons x l ih =>
      intro a
      rw [List.foldl_cons, ih]
      simp [inSet, Fin.ext_iff]
      rw [Bool.or_assoc]
  rw [chanSetOf, g]
  simp [inSet]

/-! ## A selection changes nothing a check reads -/

@[simp] theorem aheadOfHead_newSelection (q : Port) (n : Nat) :
    (s.newSelection q).aheadOfHead n = s.aheadOfHead n := rfl

@[simp] theorem grantable_newSelection (q : Port) (a : Bool) :
    (s.newSelection q).grantable a set = s.grantable a set := rfl

@[simp] theorem preempts_newSelection (q : Port) (a : Bool) (n : Nat) :
    (s.newSelection q).preempts a n set = s.preempts a n set := rfl

@[simp] theorem claimCheck_newSelection (q : Port) (a : ClaimOperands) :
    (s.newSelection q).claimCheck p a = s.claimCheck p a := rfl

@[simp] theorem ownsAll_newSelection (q : Port) : (s.newSelection q).ownsAll p set = s.ownsAll p set := rfl

theorem grantPass_newSelection (q : Port) :
    (s.newSelection q).grantPass = s.grantPass.withPorts (s.newSelection q).ports := by
  rw [← grantPass_withPorts]
  rfl

theorem revoke_withPorts (v : Vector PortState 4) : (s.withPorts v).revoke p set = (s.revoke p set).withPorts v := by
  rw [State.revoke, State.revoke, ← notifyAll_withPorts]
  rfl

theorem grant_withPorts (v : Vector PortState 4) : (s.withPorts v).grant p set = (s.grant p set).withPorts v := rfl

/-- The channel that R34 and R27 leave of one a claim takes. -/
theorem chan_grant_revoke (c : Channel) :
    ((s.revoke p set).grant p set).chan c =
      if inSet set c then
        if (s.chan c).owner.isSome then
          ((s.chan c).release (s.bankOk c) (s.chan c).config.releaseAction).grant p (s.running p) (s.bankOk c)
        else (s.chan c).grant p (s.running p) (s.bankOk c)
      else s.chan c := by
  have hb : (s.revoke p set).bankOk c = s.bankOk c := (sameBut_revoke s p set).bankOk (by simp) c
  have hr : (s.revoke p set).running p = s.running p := (sameBut_revoke s p set).running (by simp) p
  rw [chan_grant, chan_revoke, hb, hr]
  by_cases k : inSet set c <;> by_cases k₂ : (s.chan c).owner.isSome <;> simp [k, k₂]

/-! ## The list -/

/-- A claim joins an ordered list behind every claim of equal or higher priority (R23). -/
theorem insertClaim_split (k : Claim) {l : List Claim} (h : l.Pairwise Claim.Ahead) :
    ∃ ahead behind, l = ahead ++ behind ∧ insertClaim k l = ahead ++ k :: behind ∧
      (∀ x ∈ ahead, k.priority ≤ x.priority) ∧ ∀ x ∈ behind, x.priority < k.priority := by
  induction l with
  | nil => exact ⟨[], [], rfl, rfl, by simp, by simp⟩
  | cons x l ih =>
    rw [List.pairwise_cons] at h
    unfold insertClaim
    by_cases c : k.priority ≤ x.priority
    · obtain ⟨a, b, h₁, h₂, h₃, h₄⟩ := ih h.2
      rw [if_pos c]
      exact ⟨x :: a, b, by simp [h₁], by simp [h₂], by simpa [c] using h₃, h₄⟩
    · rw [if_neg c]
      refine ⟨[], x :: l, rfl, rfl, by simp, ?_⟩
      intro y hy
      rcases List.mem_cons.1 hy with rfl | hy
      · omega
      · rcases h.1 y hy with z | z <;> omega

theorem mem_insertClaim (k : Claim) (l : List Claim) : k ∈ insertClaim k l := by
  induction l with
  | nil => simp [insertClaim]
  | cons y l ih =>
    unfold insertClaim
    split <;> simp [ih]

/-- A pending claim stays when a channel of its set has an owner, or lies in the set of a head that stands before it
(R28). -/
theorem mem_grantPass_claims {k : Claim} (hk : k ∈ s.claims) {c : Channel} (hc : inSet k.set c)
    (h : (s.chan c).owner.isSome ∨ ∃ head rest, s.claims = head :: rest ∧ k ∈ rest ∧ inSet head.set c) :
    k ∈ s.grantPass.claims := by
  rcases h with h | ⟨head, rest, e, hr, h₀⟩
  · obtain ⟨granted, rest, w⟩ := grantPass_walked s
    have hcl : s.grantPass.claims = rest := by simpa using w.claims
    rw [hcl]
    rcases List.mem_append.1 ((w.perm.mem_iff (a := k)).2 hk) with g | g
    · have := w.free k g c hc
      rw [own_clearReservations] at this
      obtain ⟨q, hq⟩ := owner_isSome.1 h
      simp [hq] at this
    · exact g
  · have key : ∀ (placed : Bool) (kept : List Claim) (v : State), (v.chan c).own ≠ .free →
        k ∈ (State.walk rest placed kept v).claims := by
      intro placed kept v hv
      obtain ⟨granted, r, w⟩ := walk_spec rest placed kept v
      rw [w.claims]
      rcases List.mem_append.1 ((w.perm.mem_iff (a := k)).2 hr) with g | g
      · exact absurd (w.free k g c hc) hv
      · simp [g]
    unfold State.grantPass
    rw [e]
    unfold State.walk
    by_cases hf : s.clearReservations.allFree head.set
    · rw [if_pos hf]
      apply key
      rw [chan_notify, chan_grant, if_pos h₀]
      simp
    · rw [if_neg hf]
      simp only [Bool.false_eq_true, if_false]
      apply key
      rw [chan_reserve]
      split
      · simp
      · next z => exact fun y => z ⟨h₀, y⟩

/-! ## The withdrawal of sessions, whose claims and context carry their epochs -/

theorem claims_withdraw (h : s.OwnersOpen) (who : Port → Bool) (pick : ChanConfig → Action) :
    (s.withdraw who pick).claims = s.claims.filter fun k => !who k.port := by
  show s.claims.filter (fun k => !(who k.port && s.ownsClaim k.port k)) = _
  apply List.filter_congr
  intro k hk
  simp [State.ownsClaim, (h.2 k hk).2]

theorem cal_withdraw (h : s.ContextAgrees) (who : Port → Bool) (pick : ChanConfig → Action) :
    (s.withdraw who pick).cal = s.cal.filter fun x => !who x.port := by
  show (s.cal.filter fun x => !(who x.port && s.holdsCal x.port)) = _
  cases e : s.cal with
  | none => rfl
  | some x =>
    have k : s.holdsCal x.port = true := by simp [State.holdsCal, e, (h x e).2.2.2.1]
    simp [Option.filter, k]

end Sys2Proof.Machine
end

