-- ==== Sys2Proof/Laws/Operands.lean ====
section
/-! SUPPORT. Operands on the line and back: what the bytes of a field, a payload or a code decode to. -/

namespace Sys2Proof.Machine

/-! ## Fields -/

/-- The two bytes of a 16-bit field give the field back (R173). -/
theorem half_halfBytes (h : Half) : ∃ hi lo, halfBytes h = [hi, lo] ∧ half hi lo = h := by
  refine ⟨_, _, rfl, ?_⟩
  simp only [half]
  ext i hi
  simp only [BitVec.getElem_append, BitVec.getElem_extractLsb']
  simp
  split <;> simp_all

/-- The two bytes of a signed value give the value back (R173). -/
theorem signed_signedBytes {v : Int} (h₁ : -32768 ≤ v) (h₂ : v ≤ 32767) :
    ∃ hi lo, signedBytes v = [hi, lo] ∧ signed hi lo = v := by
  obtain ⟨hi, lo, e₁, e₂⟩ := half_halfBytes (BitVec.ofInt 16 v)
  refine ⟨hi, lo, e₁, ?_⟩
  rw [signed, e₂, BitVec.toInt_ofInt]
  unfold Int.bmod
  simp
  omega

/-- The two bytes of a number below 65536 give the number back. -/
theorem toNat_halfBytes {n : Nat} (h : n < 65536) :
    ∃ hi lo, halfBytes (BitVec.ofNat 16 n) = [hi, lo] ∧ (half hi lo).toNat = n := by
  obtain ⟨hi, lo, e₁, e₂⟩ := half_halfBytes (BitVec.ofNat 16 n)
  exact ⟨hi, lo, e₁, by rw [e₂]; simp; omega⟩

theorem toNat_natByte {n : Nat} (h : n ≤ 255) : (natByte n).toNat = n := by
  simp [natByte]
  omega

@[simp] theorem length_halfBytes (h : Half) : (halfBytes h).length = 2 := rfl

@[simp] theorem length_signedBytes (v : Int) : (signedBytes v).length = 2 := rfl

@[simp] theorem length_claimPayload (tag : Byte) (set : ChanSet) (flags limit : Byte) :
    (claimPayload tag set flags limit).length = 5 := rfl

@[simp] theorem length_configurePayload (c : Channel) (k : ChanConfig) : (configurePayload c k).length = 18 := rfl

/-! ## Codes (R173) -/

@[simp] theorem channelOf_channelByte (c : Channel) : channelOf (channelByte c) = some c := by revert c; decide

theorem channelOf_eq_none {b : Byte} (h : 15 < b.toNat) : channelOf b = none := by
  unfold channelOf
  rw [dif_neg (by omega)]

theorem channelOf_eq_some {b : Byte} {c : Channel} (h : b.toNat = c.val) : channelOf b = some c := by
  unfold channelOf
  rw [dif_pos (by omega)]
  congr 1
  exact Fin.ext h

@[simp] theorem rangeOf_byte (r : Range) : rangeOf r.byte = some r := by
  cases r with
  | off => rfl
  | driving d => cases d <;> rfl

@[simp] theorem actionOf_byte (a : Action) : actionOf a.byte = some a := by cases a <;> rfl

@[simp] theorem handoverOf_byte (m : HandoverMode) : handoverOf m.byte = some m := by cases m <;> rfl

@[simp] theorem yesNoOf_byte (b : Bool) : yesNoOf (boolByte b) = some b := by cases b <;> rfl

@[simp] theorem pointOf_byte (x : CalPoint) : pointOf x.byte = some x := by cases x <;> rfl

@[simp] theorem periodOf_byte (x : Period) : periodOf x.byte = some x := by cases x <;> rfl

@[simp] theorem multipleOf_byte (x : Multiple) : multipleOf x.byte = some x := by cases x <;> rfl

theorem pointOf_eq_none {b : Byte} (h : 1 < b.toNat) : pointOf b = none := by
  unfold pointOf
  split <;> first | omega | rfl

theorem periodOf_eq_none {b : Byte} (h : 4 < b.toNat) : periodOf b = none := by
  unfold periodOf
  split <;> first | omega | rfl

theorem multipleOf_eq_none {b : Byte} (h : 2 < b.toNat) : multipleOf b = none := by
  unfold multipleOf
  split <;> first | omega | rfl

/-! ## Payloads (R174) -/

theorem claimOperands_claimPayload (tag : Byte) (set : ChanSet) (flags limit : Byte) :
    claimOperands (claimPayload tag set flags limit) = some ⟨tag, set, flags, limit⟩ := by
  obtain ⟨hi, lo, h₁, h₂⟩ := half_halfBytes set
  simp [claimPayload, h₁, claimOperands, h₂]

theorem releaseOperands_halfBytes (set : ChanSet) : releaseOperands (halfBytes set) = some set := by
  obtain ⟨hi, lo, h₁, h₂⟩ := half_halfBytes set
  simp [h₁, releaseOperands, h₂]

theorem length_writeEntryBytes (l : List (Channel × Int)) :
    (l.flatMap fun x => channelByte x.1 :: signedBytes x.2).length = 3 * l.length := by
  induction l with
  | nil => rfl
  | cons x l ih => simp at *; omega

theorem writeEntries_bytes {l : List (Channel × Int)} (h : ∀ x ∈ l, -32768 ≤ x.2 ∧ x.2 ≤ 32767) :
    writeEntries (l.flatMap fun x => channelByte x.1 :: signedBytes x.2) =
      some (l.map fun x => (channelByte x.1, x.2)) := by
  induction l with
  | nil => rfl
  | cons x l ih =>
    obtain ⟨hi, lo, e₁, e₂⟩ := signed_signedBytes (h x (by simp)).1 (h x (by simp)).2
    have := ih fun y hy => h y (by simp [hy])
    simp [e₁, writeEntries, this, e₂]

theorem writeOperands_writePayload {l : List (Channel × Int)} (n : l.length ≤ 255)
    (h : ∀ x ∈ l, -32768 ≤ x.2 ∧ x.2 ≤ 32767) :
    writeOperands (writePayload l) = some (l.map fun x => (channelByte x.1, x.2)) := by
  rw [writePayload, writeOperands, if_pos, writeEntries_bytes h]
  rw [length_writeEntryBytes, toNat_natByte n]

theorem namedEntries_bytes (l : List (Channel × Int)) :
    namedEntries (l.map fun x => (channelByte x.1, x.2)) = some l := by
  induction l with
  | nil => rfl
  | cons x l ih => simp [namedEntries, ih]

/-- Entries whose channel numbers are 0 to 15 name their channels. -/
theorem namedEntries_of_le (l : List (Byte × Int)) (h : ∀ x ∈ l, x.1.toNat ≤ 15) :
    ∃ m, namedEntries l = some m ∧ m.map (fun x => (x.1.val, x.2)) = l.map fun x => (x.1.toNat, x.2) := by
  induction l with
  | nil => exact ⟨[], rfl, rfl⟩
  | cons x l ih =>
    obtain ⟨m, h₁, h₂⟩ := ih fun y hy => h y (by simp [hy])
    have hx := h x (by simp)
    have e : channelOf x.1 = some ⟨x.1.toNat, by omega⟩ := channelOf_eq_some rfl
    exact ⟨(⟨x.1.toNat, by omega⟩, x.2) :: m, by simp [namedEntries, e, h₁], by simp [h₂]⟩

theorem namedEntries_eq_none {l : List (Byte × Int)} (h : ∃ x ∈ l, 15 < x.1.toNat) : namedEntries l = none := by
  induction l with
  | nil => obtain ⟨x, hx, -⟩ := h; simp at hx
  | cons x l ih =>
    obtain ⟨y, hy, k⟩ := h
    rcases List.mem_cons.1 hy with rfl | hy
    · simp [namedEntries, channelOf_eq_none k]
    · unfold namedEntries
      rw [ih ⟨y, hy, k⟩]
      cases channelOf x.1 <;> rfl

theorem namedChannels_bytes (l : List Channel) : namedChannels (l.map channelByte) = some l := by
  induction l with
  | nil => rfl
  | cons x l ih => simp [namedChannels, ih]

theorem namedChannels_eq_none {l : List Byte} (h : ∃ x ∈ l, 15 < x.toNat) : namedChannels l = none := by
  induction l with
  | nil => obtain ⟨x, hx, -⟩ := h; simp at hx
  | cons x l ih =>
    obtain ⟨y, hy, k⟩ := h
    rcases List.mem_cons.1 hy with rfl | hy
    · simp [namedChannels, channelOf_eq_none k]
    · unfold namedChannels
      rw [ih ⟨y, hy, k⟩]
      cases channelOf x <;> rfl

theorem length_of_configureOperands {l : List Byte} {a : ConfigureOperands} (h : configureOperands l = some a) :
    l.length = 18 := by
  unfold configureOperands at h
  split at h <;> simp_all

/-- A CONFIGURE payload of a record within the bounds of R13 decodes to its channel and its record. -/
theorem configureOperands_configurePayload (c : Channel) {k : ChanConfig} (hk : k.inBounds) :
    ∃ a, configureOperands (configurePayload c k) = some a ∧ channelOf a.channel = some c ∧ a.record = some k := by
  have hk' := hk
  simp only [ChanConfig.inBounds, Bool.and_eq_true, decide_eq_true_eq, Range.admits] at hk
  obtain ⟨⟨⟨⟨⟨⟨⟨⟨b₁, b₂⟩, b₃⟩, b₄⟩, b₅⟩, b₆⟩, b₇⟩, b₈⟩, b₉⟩ := hk
  have s : -32768 ≤ k.safe ∧ k.safe ≤ 32767 := by
    cases hr : k.range with
    | off => simp [hr, Range.lower, Range.upper] at b₇; omega
    | driving d => cases d <;> simp [hr, Range.lower, Range.upper, DriveRange.lower] at b₇ <;> omega
  obtain ⟨w₁, w₀, e₁, e₂⟩ := toNat_halfBytes (n := k.matchWindow) (by omega)
  obtain ⟨x₁, x₀, f₁, f₂⟩ := toNat_halfBytes (n := k.slewLimit) (by omega)
  obtain ⟨y₁, y₀, g₁, g₂⟩ := toNat_halfBytes (n := k.rampStep) (by omega)
  obtain ⟨z₁, z₀, i₁, i₂⟩ := toNat_halfBytes (n := k.deviationLimit) (by omega)
  obtain ⟨v₁, v₀, j₁, j₂⟩ := signed_signedBytes s.1 s.2
  refine ⟨_, by simp only [configurePayload, e₁, f₁, g₁, i₁, j₁]; rfl, channelOf_channelByte c, ?_⟩
  simp only [ConfigureOperands.record, rangeOf_byte, yesNoOf_byte, handoverOf_byte, actionOf_byte, e₂, f₂, g₂, i₂, j₂,
    toNat_natByte b₆]
  rw [if_pos hk']

/-! ## Frames -/

theorem frameComplete_lineBytes (kind : Byte) {f : Frame} (h : f.payload.length ≤ 255) :
    frameComplete (lineBytes kind f) := by
  simp only [lineBytes, frameBody, halfBytes]
  simp [frameComplete, toNat_natByte h]

/-- The bytes of a frame on the line give the frame back (R165). -/
theorem commandOfSelection_lineBytes (p : Port) {kind : Byte} {f : Frame} (hk : kind ≠ fetchCode)
    (h : f.payload.length ≤ 255) :
    commandOfSelection p (lineBytes kind f) =
      some (if crcGood kind f then kindCommand p kind f else .crcErrorFrame p kind f) := by
  obtain ⟨hi, lo, e₁, e₂⟩ := half_halfBytes f.epoch
  have c := frameComplete_lineBytes kind h
  have l : lineBytes kind f =
      kind :: f.seq :: hi :: lo :: natByte f.payload.length :: (f.payload ++ halfBytes f.crc) := by
    simp [lineBytes, frameBody, e₁]
  have g : frameOf f.seq hi lo (natByte f.payload.length) (f.payload ++ halfBytes f.crc) = f := by
    obtain ⟨a, b, c₁, c₂⟩ := half_halfBytes f.crc
    simp only [frameOf, toNat_natByte h, e₂, c₁]
    rw [List.drop_left, List.take_left]
    simp [c₂]
  rw [l] at c ⊢
  simp only [commandOfSelection, if_neg hk, c, if_true, g]

end Sys2Proof.Machine
end

