-- ==== Sys2Proof/Laws/Tick.lean ====
section
/-! SUPPORT. The paced events said once each: what an event changes of every channel, bank, session and queue, and that an event which is not due changes nothing. -/

namespace Sys2Proof.Machine

variable (s : State)

/-! ## Nothing due -/

/-- No flag change is due when every count is below its threshold (R122, R124). -/
theorem flagsDue_eq_false :
    s.flagsDue = false ↔ ∀ c, (s.chan c).openLoadCount < 4 ∧ (s.chan c).deviationCount < 3 := by
  simp [State.flagsDue, mem_allChannels, Chan.openLoadDue, Chan.deviationDue]

/-- What `quiet` says of each part. -/
theorem quiet_iff :
    s.quiet ↔
      s.stepDue = false ∧ s.flagsDue = false ∧ s.unitDue = false ∧ s.waitsDue = false ∧ s.leasesDue = false ∧
        (∀ c, (s.chan c).timerDue = false) ∧ ∀ b, (s.bank b).lossDue = false ∧ (s.bank b).restoreDue = false := by
  have hb : ∀ b : Bank, b ∈ allBanks := by decide
  simp [State.quiet, List.all_eq_true, mem_allChannels, hb, and_assoc]

/-! ## Lists over the channels -/

theorem nodup_allChannels : allChannels.Nodup := by decide

/-- A list made of one channel's part alone. -/
theorem flatMap_allChannels {α : Type} (f : Channel → List α) (c : Channel) (h : ∀ e, e ≠ c → f e = []) :
    allChannels.flatMap f = f c := by
  have g : ∀ l : List Channel, l.Nodup → c ∈ l → l.flatMap f = f c := by
    intro l
    induction l with
    | nil => simp
    | cons x l ih =>
      intro hn hc
      rw [List.nodup_cons] at hn
      rcases List.mem_cons.1 hc with rfl | hc
      · have : l.flatMap f = [] := by
          simp only [List.flatMap_eq_nil_iff]
          intro y hy
          exact h y fun e => hn.1 (e ▸ hy)
        simp [this]
      · have : f x = [] := h x fun e => hn.1 (e ▸ hc)
        simp [this, ih hn.2 hc]
  exact g _ nodup_allChannels (mem_allChannels c)

theorem mapChans_id {f : Channel → Chan → Chan} (h : ∀ c, f c (s.chan c) = s.chan c) : s.mapChans f = s := by
  have e : (s.mapChans f).chans = s.chans := chans_ext fun c => by rw [chan_mapChans, h]
  show { s with chans := (s.mapChans f).chans } = s
  rw [e]

/-- Records handed over from a state with the same sessions, queues and time. -/
theorem handed_of_notifyAll {s u : State} {l : List (Port × NoteBody)} {m : List Part} (h : SameBut m s u)
    (n : Part.sessions ∉ m ∧ Part.queues ∉ m ∧ Part.timebase ∉ m) : Handed s (u.notifyAll l) l := by
  intro p
  have e : u.notesFor l p = s.notesFor l p := by
    unfold State.notesFor
    exact List.map_congr_left fun x _ => h.note n.2.2 x.2
  rw [queue_notifyAll, h.sessionOpen n.1, h.queue n.2.1, e]

/-! ## The monitor -/

@[simp] theorem chan_monitor (field : Vector Bool 4) (loop : Vector Int 16) (c : Channel) :
    (s.monitor field loop).chan c = (s.chan c).sample field[bankOf c] loop[c] := by
  simp [State.monitor]

@[simp] theorem bank_monitor (field : Vector Bool 4) (loop : Vector Int 16) (b : Bank) :
    (s.monitor field loop).bank b = (s.bank b).sample field[b] := by
  rw [State.monitor, bank_mapBanks]
  rfl

theorem sameBut_monitor (field : Vector Bool 4) (loop : Vector Int 16) :
    SameBut [.chans, .banks] s (s.monitor field loop) := by
  intro y hy
  cases y <;> simp [Part.Same, State.monitor] at hy ⊢

/-! ## Flag changes (R113 step 4, R122, R124) -/

theorem chan_takeFlags (n : Nat) (c : Channel) : (s.takeFlags n).chan c = (s.chan c).flagsTaken n c := by
  simp [State.takeFlags]

theorem handed_takeFlags (n : Nat) :
    Handed s (s.takeFlags n) (allChannels.flatMap fun c => (s.chan c).flagNotes n c) :=
  fun q => handed_notifyAll (s.mapChans fun c r => r.flagsTaken n c) _ q

theorem sameBut_takeFlags (n : Nat) : SameBut [.chans, .queues] s (s.takeFlags n) :=
  SameBut.trans ((sameBut_mapChans _ _).weaken (by simp)) ((sameBut_notifyAll _ _).weaken (by simp))

theorem takeFlags_of_not_due {s : State} (h : ∀ c, (s.chan c).openLoadCount < 4 ∧ (s.chan c).deviationCount < 3)
    (n : Nat) : s.takeFlags n = s := by
  have d : ∀ c, (s.chan c).openLoadDue = false ∧ (s.chan c).deviationDue = false := by
    intro c
    have := h c
    simp only [Chan.openLoadDue, Chan.deviationDue, decide_eq_false_iff_not]
    omega
  have l : (allChannels.flatMap fun c => (s.chan c).flagNotes n c) = [] := by
    simp only [List.flatMap_eq_nil_iff]
    intro c _
    simp [Chan.flagNotes, d c]
  unfold State.takeFlags
  rw [l, mapChans_id s fun c => by simp [Chan.flagsTaken, d c]]
  rfl

theorem sameBut_takeAllFlags : SameBut [.chans, .queues] s s.takeAllFlags := by
  unfold State.takeAllFlags
  split
  · exact sameBut_takeFlags s 31
  · exact SameBut.refl _ _

/-- What the flag changes due make of a channel: each changes its flag and clears its count (R122, R124). -/
theorem chan_takeAllFlags (c : Channel) : s.takeAllFlags.chan c = (s.chan c).flagsTaken 31 c := by
  unfold State.takeAllFlags
  split
  · exact chan_takeFlags s 31 c
  · next h =>
    have := (flagsDue_eq_false s).1 (by simpa using h) c
    have d : (s.chan c).openLoadDue = false ∧ (s.chan c).deviationDue = false := by
      simp only [Chan.openLoadDue, Chan.deviationDue, decide_eq_false_iff_not]
      omega
    simp [Chan.flagsTaken, d]

theorem handed_takeAllFlags :
    Handed s s.takeAllFlags (allChannels.flatMap fun c => (s.chan c).flagNotes 31 c) := by
  unfold State.takeAllFlags
  split
  · exact handed_takeFlags s 31
  · next h =>
    have := (flagsDue_eq_false s).1 (by simpa using h)
    have k := handed_takeFlags s 31
    rwa [takeFlags_of_not_due this] at k

theorem flagsTaken_all (c : Channel) (r : Chan) :
    (r.flagsTaken 31 c).openLoadDue = false ∧ (r.flagsTaken 31 c).deviationDue = false := by
  have h₁ : openLoadPlace c ≤ 31 := by have := c.isLt; simp only [openLoadPlace]; omega
  have h₂ : deviationPlace c ≤ 31 := by have := c.isLt; simp only [deviationPlace]; omega
  unfold Chan.flagsTaken
  simp only [h₁, h₂, decide_true, Bool.and_true]
  by_cases a : 4 ≤ r.openLoadCount <;> by_cases b : 3 ≤ r.deviationCount <;>
    simp [Chan.openLoadDue, Chan.deviationDue, Chan.flipOpenLoad, Chan.flipDeviation, a, b]

/-- Once taken, no flag change is due: taking them again changes nothing. -/
theorem flagsDue_takeAllFlags : s.takeAllFlags.flagsDue = false := by
  simp only [State.flagsDue, List.any_eq_false, mem_allChannels, true_imp_iff, Bool.or_eq_true, not_or,
    Bool.not_eq_true, chan_takeAllFlags]
  exact fun c => flagsTaken_all c _

@[simp] theorem takeAllFlags_takeAllFlags : s.takeAllFlags.takeAllFlags = s.takeAllFlags :=
  takeAllFlags_of_not_due (flagsDue_takeAllFlags s)

/-- What taking every flag change due does, in the terms of the statements (R113 step 4, R122, R124). -/
theorem flagsTaken_takeAllFlags : FlagsTaken s s.takeAllFlags := by
  have place : ∀ c, openLoadPlace c ≤ 31 ∧ deviationPlace c ≤ 31 := by decide
  refine ⟨fun c => ?_, ?_, sameBut_takeAllFlags s⟩
  · rw [chan_takeAllFlags]
    by_cases h₁ : 4 ≤ (s.chan c).openLoadCount <;> by_cases h₂ : 3 ≤ (s.chan c).deviationCount <;>
      simp [Chan.flagsTaken, Chan.openLoadDue, Chan.deviationDue, Chan.flipOpenLoad, Chan.flipDeviation, place c, h₁, h₂]
  · have e : ∀ c, (s.chan c).flagNotes 31 c =
        (if 4 ≤ (s.chan c).openLoadCount then (s.chan c).toOwner (.openLoad c !(s.chan c).openLoad) else []) ++
          if 3 ≤ (s.chan c).deviationCount then (s.chan c).toOwner (.deviation c !(s.chan c).deviation) else [] := by
      intro c
      simp [Chan.flagNotes, Chan.openLoadDue, Chan.deviationDue, place c]
    have := handed_takeAllFlags s
    simp only [e] at this
    exact this

/-- And it is the one state of which `FlagsTaken` speaks. -/
theorem FlagsTaken.eq {s u : State} (h : FlagsTaken s u) : u = s.takeAllFlags := by
  obtain ⟨c₁, q₁, b₁⟩ := h
  obtain ⟨c₂, q₂, b₂⟩ := flagsTaken_takeAllFlags s
  have rest : SameBut [.chans, .queues] s.takeAllFlags u := by
    intro x n
    have h₁ := b₁ x n
    have h₂ := b₂ x n
    cases x <;> exact Eq.trans h₁ (Eq.symm h₂)
  refine SameBut.eq fun x _ => ?_
  cases x with
  | chans => exact chans_ext fun c => (c₁ c).trans (c₂ c).symm
  | queues => exact queues_ext fun p => (q₁ p).trans (q₂ p).symm
  | _ => exact rest _ (by simp)

/-! ## The engine's step (R74, R88) -/

theorem chan_stepChannels (c : Channel) : s.stepChannels.chan c = (s.chan c).tick (s.calValue c) := by
  show ((s.mapChans fun c r => r.tick (s.calValue c)).notifyAll _).chan c = _
  simp

theorem handed_stepChannels :
    Handed s s.stepChannels
      (allChannels.flatMap fun c => (s.chan c).doneNotes c ((s.chan c).tick (s.calValue c))) :=
  fun q => handed_notifyAll (s.mapChans fun c r => r.tick (s.calValue c)) _ q

theorem sameBut_stepChannels : SameBut [.chans, .queues, .stepDue] s s.stepChannels := by
  intro y hy
  cases y <;> simp [Part.Same, State.stepChannels] at hy ⊢

/-- The step that waits comes after the flag changes of its tick (R113). -/
theorem takeStep_of_due {s : State} (h : s.stepDue) : s.takeStep = s.takeAllFlags.stepChannels := by
  rw [State.takeStep, if_pos h]

theorem takeStep_of_not_due {s : State} (h : s.stepDue = false) : s.takeStep = s := by
  rw [State.takeStep, if_neg (by simp [h])]

theorem sameBut_takeStep : SameBut [.chans, .queues, .stepDue] s s.takeStep := by
  cases h : s.stepDue
  · rw [takeStep_of_not_due h]
    exact SameBut.refl _ _
  · rw [takeStep_of_due h]
    exact SameBut.trans ((sameBut_takeAllFlags s).weaken (by simp)) (sameBut_stepChannels _)

/-! ## Field events (R115 to R119) -/

theorem chan_loseField (b : Bank) (c : Channel) :
    (s.loseField b).chan c = if bankOf c = b then (s.chan c).fieldLoss else s.chan c := by
  unfold State.loseField
  simp only [chan_notifyAll]
  show ((s.modBank b fun _ => ⟨.lost, 0⟩).mapChans fun c r => if bankOf c = b then r.fieldLoss else r).chan c = _
  rw [chan_mapChans, chan_modBank]

theorem bank_loseField (b e : Bank) : (s.loseField b).bank e = if b = e then ⟨.lost, 0⟩ else s.bank e := by
  unfold State.loseField
  simp only [bank_notifyAll]
  show ((s.modBank b fun _ => ⟨.lost, 0⟩).mapChans fun c r => if bankOf c = b then r.fieldLoss else r).bank e = _
  rw [bank_mapChans, bank_modBank]

theorem cal_loseField (b : Bank) : (s.loseField b).cal = if (s.calAborted b).isSome then none else s.cal := by
  unfold State.loseField
  simp only [cal_notifyAll]

theorem handed_loseField (b : Bank) :
    Handed s (s.loseField b)
      ((s.bankOwners b).map (fun p => (p, NoteBody.fieldLost b)) ++
        (s.calAborted b).toList.map fun x => (x.port, NoteBody.calAborted x.channel)) := by
  refine handed_of_notifyAll (m := [.chans, .banks, .cal]) ?_ (by simp)
  intro y hy
  cases y <;> simp [Part.Same] at hy ⊢

theorem sameBut_loseField (b : Bank) : SameBut [.chans, .banks, .cal, .queues] s (s.loseField b) := by
  intro y hy
  cases y <;> simp [Part.Same, State.loseField] at hy ⊢

theorem chan_restoreField (b : Bank) (c : Channel) :
    (s.restoreField b).chan c =
      if bankOf c = b then (s.chan c).restore (s.ownerRunning (s.chan c)) else s.chan c := by
  simp [State.restoreField]

theorem bank_restoreField (b e : Bank) : (s.restoreField b).bank e = if b = e then ⟨.ok, 0⟩ else s.bank e := by
  simp [State.restoreField]

theorem handed_restoreField (b : Bank) :
    Handed s (s.restoreField b) ((s.bankOwners b).map fun p => (p, NoteBody.fieldRestored b)) := by
  refine handed_of_notifyAll (m := [.chans, .banks]) ?_ (by simp)
  intro y hy
  cases y <;> simp [Part.Same] at hy ⊢

theorem sameBut_restoreField (b : Bank) : SameBut [.chans, .banks, .queues] s (s.restoreField b) := by
  intro y hy
  cases y <;> simp [Part.Same, State.restoreField] at hy ⊢

/-- The ports that own a channel of the bank, each once (R117, R119). -/
theorem mem_bankOwners (b : Bank) (p : Port) :
    p ∈ s.bankOwners b ↔ ∃ c, bankOf c = b ∧ (s.chan c).own = .owned p := by
  simp [State.bankOwners, mem_allPorts, mem_allChannels, ownedBy_iff, List.any_eq_true]

theorem nodup_bankOwners (b : Bank) : (s.bankOwners b).Nodup := List.Nodup.filter _ (by decide)

/-- What one record for each port of a list without repeats is for one port. -/
theorem notesFor_each {l : List Port} (h : l.Nodup) (b : NoteBody) (p : Port) :
    s.notesFor (l.map fun q => (q, b)) p = if p ∈ l then [s.note b] else [] := by
  induction l with
  | nil => rfl
  | cons q l ih =>
    rw [List.nodup_cons] at h
    have k := ih h.2
    simp only [State.notesFor, List.map_cons, List.filter_cons] at k ⊢
    by_cases e : q = p
    · subst e
      simp only [decide_true, if_true, List.map_cons, k, if_neg h.1, List.mem_cons, true_or]
    · simp only [e, decide_false, Bool.false_eq_true, if_false, k, List.mem_cons, Ne.symm e, false_or]

theorem takeLoss_of_not_due {s : State} {b : Bank} (h : (s.bank b).lossDue = false) : s.takeLoss b = s := by
  rw [State.takeLoss, if_neg (by simp [h])]

theorem takeRestore_of_not_due {s : State} {b : Bank} (h : (s.bank b).restoreDue = false) : s.takeRestore b = s := by
  rw [State.takeRestore, if_neg (by simp [h])]

theorem sameBut_takeLoss (b : Bank) : SameBut [.chans, .banks, .cal, .queues] s (s.takeLoss b) := by
  unfold State.takeLoss
  split
  · exact SameBut.trans ((sameBut_takeAllFlags s).weaken (by simp)) (sameBut_loseField _ b)
  · exact SameBut.refl _ _

theorem sameBut_takeRestore (b : Bank) : SameBut [.chans, .banks, .queues] s (s.takeRestore b) := by
  unfold State.takeRestore
  split
  · exact SameBut.trans ((sameBut_takeAllFlags s).weaken (by simp)) (sameBut_restoreField _ b)
  · exact SameBut.refl _ _

theorem sameBut_takeFieldEvents : SameBut [.chans, .banks, .cal, .queues] s s.takeFieldEvents := by
  unfold State.takeFieldEvents
  generalize allBanks = l
  induction l generalizing s with
  | nil => exact SameBut.refl _ _
  | cons b l ih =>
    exact SameBut.trans (sameBut_takeLoss s b)
      (SameBut.trans ((sameBut_takeRestore _ b).weaken (by simp)) (ih ((s.takeLoss b).takeRestore b)))

/-! ## The timer-unit event (R157, R67, R45, R84) -/

theorem session_countLeases (p : Port) :
    s.countLeases.session p = (s.session p).countLease (s.port p).isExecuting s.renewed[p] := by
  simp [State.countLeases, State.session, State.mapSessions]

theorem sameBut_countLeases : SameBut [.sessions, .leasesDue, .renewed] s s.countLeases := by
  intro y hy
  cases y <;> simp [Part.Same, State.countLeases] at hy ⊢

theorem sameBut_countWaits : SameBut [.claims, .waitsDue] s s.countWaits := by
  intro y hy
  cases y <;> simp [Part.Same, State.countWaits] at hy ⊢

/-- The shares of the arbiter and of the session block: each counts, or waits for the command of the event that its count
would bring (R45, R67, R157). -/
theorem shareUnit_spec :
    (s.shareUnit.claims = if s.waitEnds then s.claims else s.claims.map Claim.countWait) ∧
      s.shareUnit.waitsDue = s.waitEnds ∧
      (∀ p, s.shareUnit.session p =
        if s.leaseEnds then s.session p else (s.session p).countLease (s.port p).isExecuting s.renewed[p]) ∧
      s.shareUnit.leasesDue = s.leaseEnds ∧
      (s.shareUnit.renewed = if s.leaseEnds then s.renewed else Vector.replicate 4 false) ∧
      SameBut [.claims, .sessions, .waitsDue, .leasesDue, .renewed] s s.shareUnit := by
  have w : (if s.waitEnds then { s with waitsDue := true } else s.countWaits).leaseEnds = s.leaseEnds := by
    split <;> rfl
  unfold State.shareUnit
  simp only [w]
  cases s.waitEnds <;> cases s.leaseEnds <;> refine ⟨rfl, rfl, fun p => ?_, rfl, rfl, fun y hy => ?_⟩
  all_goals first | exact session_countLeases _ p | rfl | (cases y <;> first | rfl | simp at hy)

/-- What a timer-unit event leaves (R84, R156, R157). -/
theorem countUnit_spec :
    (∀ c, s.countUnit.chan c = (s.chan c).countTimer) ∧
      s.countUnit.timebase = { s.timebase with tickCount := 0, unitCounter := s.timebase.unitCounter + 1 } ∧
      (s.countUnit.claims = if s.waitEnds then s.claims else s.claims.map Claim.countWait) ∧
      s.countUnit.waitsDue = s.waitEnds ∧
      (∀ p, s.countUnit.session p =
        if s.leaseEnds then s.session p else (s.session p).countLease (s.port p).isExecuting s.renewed[p]) ∧
      s.countUnit.leasesDue = s.leaseEnds ∧
      (s.countUnit.renewed = if s.leaseEnds then s.renewed else Vector.replicate 4 false) ∧
      SameBut [.chans, .sessions, .claims, .timebase, .waitsDue, .leasesDue, .renewed] s s.countUnit := by
  have key : ∀ r : State, r.claims = s.claims → r.sessions = s.sessions → r.ports = s.ports → r.renewed = s.renewed →
      r.waitEnds = s.waitEnds ∧ r.leaseEnds = s.leaseEnds ∧ r.session = s.session ∧ r.port = s.port := by
    intro r h₁ h₂ h₃ h₄
    simp only [State.waitEnds, State.leaseEnds, h₁, true_and]
    have e₁ : r.session = s.session := funext fun p => by simp only [State.session, h₂]
    have e₂ : r.port = s.port := funext fun p => by simp only [State.port, h₃]
    simp only [e₁, e₂, h₄, and_self]
  have u : s.countUnit =
    State.shareUnit
      { s.mapChans fun _ r => r.countTimer with
        timebase := { s.timebase with tickCount := 0, unitCounter := s.timebase.unitCounter + 1 } } := rfl
  generalize hr : ({ s.mapChans fun _ r => r.countTimer with
    timebase := { s.timebase with tickCount := 0, unitCounter := s.timebase.unitCounter + 1 } } : State) = r at u
  have c : ∀ c, r.chan c = (s.chan c).countTimer := fun c => by rw [← hr]; exact chan_mapChans s _ c
  have k : SameBut [.chans, .timebase] s r := by
    rw [← hr]
    intro y hy
    cases y <;> simp [Part.Same] at hy ⊢
  have n : r.renewed = s.renewed := k .renewed (by simp)
  obtain ⟨w, l, e₁, e₂⟩ := key r (k .claims (by simp)) (k .sessions (by simp)) (k .ports (by simp)) n
  obtain ⟨h₁, h₂, h₃, h₄, h₆, h₅⟩ := shareUnit_spec r
  rw [w] at h₁ h₂
  rw [l] at h₃ h₄ h₆
  rw [e₁, e₂, n] at h₃
  rw [n] at h₆
  rw [k .claims (by simp)] at h₁
  rw [u]
  exact ⟨fun c₀ => (h₅.chan (by simp) c₀).trans (c c₀), (h₅ .timebase (by simp)).trans (by rw [← hr]), h₁, h₂, h₃, h₄, h₆,
    SameBut.trans (k.weaken (by simp)) (h₅.weaken (by simp))⟩

theorem isExecuting_iff {x : PortState} : x.isExecuting ↔ ∃ seq, x.transport = .executing seq := by
  unfold PortState.isExecuting
  cases x.transport <;> simp

/-- A count that ends a wait (R45). -/
theorem expired_countWait {k : Claim} : k.countWait.expired ↔ k.wait = some 0 ∨ k.wait = some 1 := by
  obtain ⟨_, _, _, _, _, wait, _⟩ := k
  cases wait with
  | none => simp [Claim.expired, Claim.countWait]
  | some n => simp [Claim.expired, Claim.countWait]; omega

/-- A count that ends a lease: the session has not been renewed since the event fell due (R67, R69). -/
theorem lapseDue_countLease {x : Session} {e r : Bool} :
    (x.countLease e r).lapseDue ↔ x.isOpen ∧ (x.counter = 0 ∨ (e = false ∧ r = false ∧ x.counter = 1)) := by
  obtain ⟨state, _, _, _, counter⟩ := x
  by_cases h : counter = 1 <;> cases state <;> cases e <;> cases r <;>
    simp [Session.countLease, Session.lapseDue, Session.isOpen, h]
  all_goals omega

@[simp] theorem isExecuting_newSelection (p q : Port) :
    ((s.newSelection p).port q).isExecuting = (s.port q).isExecuting := by
  rw [State.newSelection, port_modPort]
  split
  · next h => subst h; rfl
  · rfl

/-- Whether anything is due is not read from the ports. -/
@[simp] theorem quiet_newSelection (p : Port) : (s.newSelection p).quiet = s.quiet := rfl

theorem takeUnit_of_not_due {s : State} (h : s.unitDue = false) : s.takeUnit = s := by
  rw [State.takeUnit, if_neg (by simp [h])]

theorem takeUnit_of_due {s : State} (h : s.unitDue) (k : s.flagsDue = false) : s.takeUnit = s.countUnit := by
  rw [State.takeUnit, if_pos h, takeAllFlags_of_not_due k]

theorem sameBut_takeUnit :
    SameBut [.chans, .sessions, .claims, .timebase, .queues, .waitsDue, .leasesDue, .renewed] s s.takeUnit := by
  unfold State.takeUnit
  split
  · exact SameBut.trans ((sameBut_takeAllFlags s).weaken (by simp))
      ((countUnit_spec s.takeAllFlags).2.2.2.2.2.2.2.weaken (by simp))
  · exact SameBut.refl _ _

/-! ## Handover timer expiries (R85, R86, R88) -/

theorem chan_takeExpiries (n : Nat) (c : Channel) :
    (s.takeExpiries n).chan c =
      if (s.chan c).timerDue && decide (c.val ≤ n) then (s.chan c).expire else s.chan c := by
  simp [State.takeExpiries]

theorem handed_takeExpiries (n : Nat) :
    Handed s (s.takeExpiries n)
      (allChannels.flatMap fun c =>
        if (s.chan c).timerDue && decide (c.val ≤ n) then (s.chan c).expiryNotes c else []) :=
  fun q => handed_notifyAll
    (s.mapChans fun c r => if r.timerDue && decide (c.val ≤ n) then r.expire else r) _ q

theorem sameBut_takeExpiries (n : Nat) : SameBut [.chans, .queues] s (s.takeExpiries n) :=
  SameBut.trans ((sameBut_mapChans _ _).weaken (by simp)) ((sameBut_notifyAll _ _).weaken (by simp))

/-! ## Claim expiries and lapses (R46, R48, R68) -/

theorem takeClaimExpiry_of_not_due {s : State} (h : s.waitsDue = false) : s.takeClaimExpiry = s := by
  rw [State.takeClaimExpiry, if_neg (by simp [h])]

theorem takeClaimExpiry_of_due {s : State} (h : s.waitsDue) (k : s.flagsDue = false) :
    s.takeClaimExpiry = s.countWaits.expireClaims := by
  rw [State.takeClaimExpiry, if_pos h, takeAllFlags_of_not_due k]

theorem expireClaims_of_none {s : State} (h : ∀ k ∈ s.claims, k.expired = false) : s.expireClaims = s := by
  rw [State.expireClaims, if_neg]
  simp only [List.any_eq_true]
  rintro ⟨k, h₁, h₂⟩
  simp [h k h₁] at h₂

theorem sameBut_expireClaims : SameBut [.chans, .claims, .queues] s s.expireClaims := by
  unfold State.expireClaims
  split
  · refine SameBut.trans (b := { s with claims := s.claims.filter fun k => !k.expired }) ?_
      (SameBut.trans ((sameBut_notifyAll _ _).weaken (by simp)) (sameBut_grantPass _))
    intro y hy
    cases y <;> simp [Part.Same] at hy ⊢
  · exact SameBut.refl _ _

theorem sameBut_takeClaimExpiry : SameBut [.chans, .claims, .queues, .waitsDue] s s.takeClaimExpiry := by
  unfold State.takeClaimExpiry
  split
  · exact SameBut.trans ((sameBut_takeAllFlags s).weaken (by simp))
      (SameBut.trans ((sameBut_countWaits _).weaken (by simp)) ((sameBut_expireClaims _).weaken (by simp)))
  · exact SameBut.refl _ _

theorem lapseDue_iff {s : State} {p : Port} :
    (s.session p).lapseDue ↔ s.sessionOpen p ∧ (s.session p).counter = 0 := by
  simp [Session.lapseDue, State.sessionOpen]

/-- LEASE_LAPSED joins the queue of each port of the list (R129). -/
theorem noteLapse_foldl {l : List Port} (h : l.Nodup) :
    SameBut [.queues] s (l.foldl State.noteLapse s) ∧
      ∀ q, (l.foldl State.noteLapse s).queue q =
        if q ∈ l then appendNote (s.note .leaseLapsed) (s.queue q) else s.queue q := by
  induction l generalizing s with
  | nil => exact ⟨SameBut.refl _ _, fun q => by simp⟩
  | cons p l ih =>
    rw [List.nodup_cons] at h
    obtain ⟨h₁, h₂⟩ := ih (s.noteLapse p) h.2
    have k : SameBut [.queues] s (s.noteLapse p) := by
      intro y hy
      cases y <;> simp [Part.Same, State.noteLapse] at hy ⊢
    refine ⟨SameBut.trans k h₁, fun q => ?_⟩
    rw [List.foldl_cons, h₂ q, k.note (by simp)]
    by_cases e : p = q
    · subst e
      simp [h.1, State.noteLapse]
    · simp [State.noteLapse, e, Ne.symm e]

theorem takeLapse_of_not_due {s : State} (h : s.leasesDue = false) : s.takeLapse = s := by
  rw [State.takeLapse, if_neg (by simp [h])]

theorem takeLapse_of_due {s : State} (h : s.leasesDue) (k : s.flagsDue = false) :
    s.takeLapse = s.countLeases.lapseSessions := by
  rw [State.takeLapse, if_pos h, takeAllFlags_of_not_due k]

theorem lapseSessions_of_none {s : State} (h : ∀ p, (s.session p).lapseDue = false) : s.lapseSessions = s := by
  rw [State.lapseSessions, if_neg]
  simp [h]

theorem sameBut_lapseSessions : SameBut [.chans, .claims, .cal, .sessions, .queues] s s.lapseSessions := by
  have h₁ := sameBut_withdraw s (fun p => (s.session p).lapseDue) ChanConfig.lapseAction
  unfold State.lapseSessions
  split
  · generalize s.withdraw (fun p => (s.session p).lapseDue) ChanConfig.lapseAction = w at h₁ ⊢
    have h₂ : SameBut [.sessions] w (w.mapSessions fun _ x => if x.lapseDue then { x with state := .lapsed } else x) := by
      intro y hy
      cases y <;> simp [Part.Same] at hy ⊢
    exact SameBut.trans (h₁.weaken (by simp)) (SameBut.trans (h₂.weaken (by simp))
      (SameBut.trans ((sameBut_grantPass _).weaken (by simp))
        ((noteLapse_foldl _ (List.Nodup.filter _ (by decide))).1.weaken (by simp))))
  · exact SameBut.refl _ _

theorem sameBut_takeLapse :
    SameBut [.chans, .claims, .cal, .sessions, .queues, .leasesDue, .renewed] s s.takeLapse := by
  unfold State.takeLapse
  split
  · exact SameBut.trans ((sameBut_takeAllFlags s).weaken (by simp))
      (SameBut.trans ((sameBut_countLeases _).weaken (by simp)) ((sameBut_lapseSessions _).weaken (by simp)))
  · exact SameBut.refl _ _

/-! ## Everything due -/

theorem sameBut_takeDue :
    SameBut [.chans, .claims, .sessions, .banks, .cal, .timebase, .queues, .stepDue, .waitsDue, .leasesDue, .renewed]
      s s.takeDue := by
  unfold State.takeDue
  exact SameBut.trans ((sameBut_takeAllFlags s).weaken (by simp)) <|
    SameBut.trans ((sameBut_takeStep _).weaken (by simp)) <|
    SameBut.trans ((sameBut_takeFieldEvents _).weaken (by simp)) <|
    SameBut.trans ((sameBut_takeUnit _).weaken (by simp)) <|
    SameBut.trans ((sameBut_takeExpiries _ 15).weaken (by simp)) <|
    SameBut.trans ((sameBut_takeClaimExpiry _).weaken (by simp)) ((sameBut_takeLapse _).weaken (by simp))

theorem sameBut_settled :
    SameBut [.chans, .claims, .sessions, .banks, .cal, .timebase, .queues, .stepDue, .waitsDue, .leasesDue, .renewed]
      s s.settled := by
  unfold State.settled
  split
  · exact SameBut.refl _ _
  · exact sameBut_takeDue s

/-- Where nothing is due, there is nothing to take. -/
theorem takeDue_of_quiet {s : State} (h : s.quiet) : s.takeDue = s := by
  obtain ⟨h₁, h₂, h₃, h₄, h₅, h₆, h₇⟩ := (quiet_iff s).1 h
  have fields : ∀ l : List Bank, l.foldl (fun t b => (t.takeLoss b).takeRestore b) s = s := by
    intro l
    induction l with
    | nil => rfl
    | cons b l ih => rw [List.foldl_cons, takeLoss_of_not_due (h₇ b).1, takeRestore_of_not_due (h₇ b).2, ih]
  have timers : s.takeExpiries 15 = s := by
    have n : (allChannels.flatMap fun c =>
        if (s.chan c).timerDue && decide (c.val ≤ 15) then (s.chan c).expiryNotes c else []) = [] := by
      simp [List.flatMap_eq_nil_iff, h₆]
    unfold State.takeExpiries
    rw [n, mapChans_id s fun c => by simp [h₆]]
    rfl
  unfold State.takeDue State.takeFieldEvents
  rw [takeAllFlags_of_not_due h₂, takeStep_of_not_due h₁, fields, takeUnit_of_not_due h₃, timers,
    takeClaimExpiry_of_not_due h₄, takeLapse_of_not_due h₅]

/-- A tick is settled in the same way from the state in which its flag changes have been taken. -/
theorem settled_takeAllFlags : s.takeAllFlags.settled = s.settled := by
  cases f : s.flagsDue with
  | false => rw [takeAllFlags_of_not_due f]
  | true =>
    have n : s.quiet = false := by simp [State.quiet, f]
    have d : s.takeAllFlags.takeDue = s.takeDue := by simp [State.takeDue]
    cases q : s.takeAllFlags.quiet with
    | true => rw [settled_of_quiet q, State.settled, n, if_neg (by simp), ← d, takeDue_of_quiet q]
    | false => rw [State.settled, State.settled, n, q, if_neg (by simp), if_neg (by simp), d]

/-! ## Requests -/

/-- Every request command goes through `receive` (R165 to R169). -/
theorem exec_request {i : Instr} {r : Request} (h : requestOf i = some r) :
    ∃ (α : Type) (refusal : Payload) (operands : List Byte → Option α) (run : α → State → State × Option Reply),
      ∀ s, exec i s = .next (s.receive r.port r.kind r.lead r.frame r.gate refusal operands run) := by
  cases i <;> simp [requestOf] at h <;> subst h <;> exact ⟨_, _, _, _, fun s => rfl⟩

end Sys2Proof.Machine
end

