-- ==== Sys2Proof/Tests/Slice0.lean ====
section
/-! SUPPORT. Tests: ill-formed commands refused, the CRC, one or two single steps for every command with results worked out by hand from the rules named, and for every statement with hypotheses a state and operands that meet them. -/

namespace Sys2Proof.Tests

set_option Elab.async false

open Sys2Proof.Machine

/-! ## States and frames of the tests -/

/-- A channel of port 0, forced with HOLD at 0 in range V10. -/
def held : Chan :=
  { Chan.reset with
    config := { ChanConfig.reset with range := .driving .v10 }, own := .owned 0, drive := .forced
    forced := some ⟨.hold, some 0⟩, held := some 0 }

/-- A preemptible channel of port 1, following 100 in range VB10. -/
def following : Chan :=
  { Chan.reset with
    config := { ChanConfig.reset with range := .driving .vb10, preemptible := true }, own := .owned 1, drive := .follow
    target := some 100, applied := 100, prevApplied := 100 }

/-- A channel without an owner, forced with SAFE at 0 in range I20. -/
def loose : Chan :=
  { Chan.reset with
    config := { ChanConfig.reset with range := .driving .i20 }, drive := .forced, forced := some ⟨.safe, some 0⟩ }

/-- Every bank OK; port 0 IDLE with channel 0, port 1 RUN with channel 1, port 2 LAPSED, port 3 CLOSED. -/
def op : State :=
  { State.reset with
    starting := false, resetAsserted := false, banks := Vector.replicate 4 ⟨.ok, 0⟩, epochCounter := 3
    chans := (((Vector.replicate 16 Chan.reset).set 0 held).set 1 following).set 2 loose
    ceilings := Vector.replicate 4 7
    sessions :=
      ((((Vector.replicate 4 Session.closedContext).set 0 ⟨.idle, 1, 3, 10, 7⟩).set 1 ⟨.run, 2, 2, 20, 20⟩).set 2
        ⟨.lapsed, 3, 1, 5, 0⟩) }

/-- What a command leaves of a field. -/
def after {α : Type} (i : Instr) (s : State) (f : State → α) : Option α :=
  match exec i s with
  | .next t => some (f t)
  | _ => none

/-- The result of the response that a command leaves on a port. -/
def resultOn (p : Port) (t : State) : Option Result :=
  match (t.port p).transport with
  | .answered r _ => some r.result
  | .ready | .executing _ => none

/-- A frame of port 0 (epoch 1). -/
def fr (kind : Byte) (payload : List Byte) : Frame := sealedFrame kind [] 9 1 payload

/-- A CAL frame of port 0 with a step. -/
def calFr (step : Byte) (payload : List Byte) : Frame := sealedFrame kindCal [step] 9 1 payload

/-- A frame whose CRC is not its own. -/
def broken (kind : Byte) (f : Frame) : Frame := { f with crc := crc16 (frameBody kind f) + 1 }

/-- A context of port 0 on channel 0. -/
def context (phase : CalPhase) : CalContext :=
  { phase := phase, port := 0, epoch := 1, channel := 0, range := .v10, start := 0, measuredLow := some 510
    measuredHigh := some 9490, computed := if phase = .computed ∨ phase = .committing then some ⟨2227, -11⟩ else none }

/-- Channel 0 CALIBRATING in a phase. -/
def calib (phase : CalPhase) : State :=
  { op.modChan 0 fun r => { r with drive := .calibrating, forced := none, held := none } with
    cal := some (context phase) }

/-- The commit of port 0 in progress, its port EXECUTING. -/
def commit : State := (calib .committing).modPort 0 fun x => { x with transport := .executing 9 }

/-- A pending claim of port 1 for channel 0, which its owner reserves for nobody. -/
def waiting : Claim := { tag := 5, port := 1, epoch := 2, priority := 2, set := 0x0009, wait := some 3, arrival := 0 }

/-- `waiting` pends: channel 3 is RESERVED for it. -/
def pend : State :=
  { op.modChan 3 fun r => { r with own := .reserved } with claims := [waiting], arrivals := 1 }

/-! ## Ill-formed commands -/

/-- A payload longer than byte 4 can say (R165). -/
theorem test_wf_long : (Instr.refresh 0 (fr kindRefresh (List.replicate 256 0))).wellFormed = false := by decide +kernel

theorem test_wf_long_with_lead : (Instr.calAbort 0 (calFr 7 (List.replicate 255 0))).wellFormed = false := by
  decide +kernel

theorem test_wf_known_step : (Instr.calUnknownStep 0 (fr kindCal [7])).wellFormed = false := by decide +kernel

theorem test_wf_known_variant : (Instr.timebaseUnknownVariant 0 (fr kindTimebase [1, 0, 0])).wellFormed = false := by
  decide +kernel

theorem test_wf_known_kind : (Instr.unknownKindFrame 0 kindClaim (fr kindClaim [])).wellFormed = false := by
  decide +kernel

theorem test_wf_fetch_is_no_kind : (Instr.unknownKindFrame 0 0xA5 (fr 0xA5 [])).wellFormed = false := by decide +kernel

theorem test_wf_crc_right : (Instr.crcErrorFrame 0 kindOpen (fr kindOpen [1, 1])).wellFormed = false := by
  decide +kernel

theorem test_wf_crc_of_fetch : (Instr.crcErrorFrame 0 0xA5 (broken 0xA5 (fr 0xA5 []))).wellFormed = false := by
  decide +kernel

theorem test_wf_no_byte : (Instr.frameError 0 []).wellFormed = false := by decide +kernel

theorem test_wf_fetch_cut : (Instr.frameError 0 [0xA5, 0]).wellFormed = false := by decide +kernel

theorem test_wf_complete : (Instr.frameError 0 [3, 0, 0, 0, 0, 0, 0]).wellFormed = false := by decide +kernel

theorem test_wf_cut : (Instr.frameError 0 [3, 0, 0, 0, 0, 0]).wellFormed = true := by decide +kernel

/-! ## Frames on the line -/

/-- The check value of the CRC over 31H to 39H is 29B1H (R165). -/
theorem test_crc : crc16 [0x31, 0x32, 0x33, 0x34, 0x35, 0x36, 0x37, 0x38, 0x39] = 0x29B1 := by decide +kernel

/-- CLAIM: kind 10H, sequence number, epoch, L = 5, tag, set, flags, wait limit, CRC (R174). -/
theorem test_line_claim :
    commandOfSelection 2 ([0x10, 9, 0, 1, 5, 7, 0x80, 0x01, 3, 12]
        ++ halfBytes (crc16 [0x10, 9, 0, 1, 5, 7, 0x80, 0x01, 3, 12])) =
      some (.claim 2 (fr kindClaim (claimPayload 7 0x8001 3 12))) := by decide +kernel

/-- CAL DRIVE HIGH: kind 40H, step 2, point 1 (R174). -/
theorem test_line_drive :
    commandOfSelection 1 ([0x40, 9, 0, 1, 2, 2, 1] ++ halfBytes (crc16 [0x40, 9, 0, 1, 2, 2, 1])) =
      some (.calDrive 1 (calFr 2 [1])) := by decide +kernel

/-- TIMEBASE READ: kind 50H, variant 0; and a variant the spec does not name (R174). -/
theorem test_line_timebase :
    commandOfSelection 1 ([0x50, 9, 0, 1, 1, 0] ++ halfBytes (crc16 [0x50, 9, 0, 1, 1, 0])) =
        some (.timebaseRead 1 (sealedFrame kindTimebase [0] 9 1 [])) ∧
      commandOfSelection 1 ([0x50, 9, 0, 1, 1, 2] ++ halfBytes (crc16 [0x50, 9, 0, 1, 1, 2])) =
        some (.timebaseUnknownVariant 1 (fr kindTimebase [2])) := by decide +kernel

/-- A wrong CRC, a selection cut short, the fetch code, and a kind without a row (R165, R170). -/
theorem test_line_others :
    commandOfSelection 0 [0x03, 9, 0, 1, 0, 0, 0] =
        some (.crcErrorFrame 0 3 { seq := 9, epoch := 1, payload := [], crc := 0 }) ∧
      commandOfSelection 0 [0x03, 9, 0, 1, 0, 0] = some (.frameError 0 [0x03, 9, 0, 1, 0, 0]) ∧
      commandOfSelection 0 [0xA5] = some (.fetch 0) ∧
      commandOfSelection 0 ([0x05, 9, 0, 1, 0] ++ halfBytes (crc16 [0x05, 9, 0, 1, 0])) =
        some (.unknownKindFrame 0 5 (fr 5 [])) := by decide +kernel

/-! ## Single steps -/

/-- RESET: channel 0 takes its reset values (R2); the slot being written is kept with what it holds, and so is the other
(R147, R154). -/
theorem test_reset :
    after (.reset false) commit
        (fun t => (t.chan 0, t.starting, (t.cell 0 .v10).slots[0].generation, (t.cell 0 .v10).slots[1])) =
      some (Chan.reset, true, 1, .blank 0) := by decide +kernel

/-- RESET_END: straps 11, 00, 01, 10 give the ceilings 7, 1, 3, 5 (R55); MHOLD high is held (R162). -/
theorem test_reset_end :
    after (.resetEnd #v[3, 0, 1, 2] true) State.reset (fun t => (t.ceilings, t.timebase.hold)) =
      some (#v[7, 1, 3, 5], .asserted) := by decide +kernel

/-- OPEN with priority 6 and lease 12: epoch 4 after 3 (R54, R59). -/
theorem test_open :
    after (.openSession 3 (fr kindOpen [6, 12])) op (fun t => t.session 3) = some ⟨.idle, 4, 6, 12, 12⟩ := by
  decide +kernel

theorem test_open_twice :
    after (.openSession 0 (fr kindOpen [6, 12])) op (resultOn 0) = some (some .alreadyOpen) := by decide +kernel

/-- CLOSE frees channel 0, forced with HOLD, its release action (R71, R2). -/
theorem test_close :
    after (.closeSession 0 (fr kindClose [])) op (fun t => ((t.chan 0).own, (t.chan 0).forced, (t.session 0).state)) =
      some (.free, some ⟨.hold, some 0⟩, .closed) := by decide +kernel

/-- REFRESH: the lease counter returns to the lease period, 10 (R66). -/
theorem test_refresh :
    after (.refresh 0 (fr kindRefresh [])) op (fun t => (t.session 0).counter) = some 10 := by decide +kernel

/-- MODE RUN: channel 0 holds its applied value with the timer at 16 units (R63, R83, R2). -/
theorem test_mode_run :
    after (.mode 0 (fr kindMode [1])) op (fun t => ((t.chan 0).drive, (t.chan 0).held, (t.chan 0).timer)) =
      some (.holding, some 0, some 16) := by decide +kernel

/-- MODE IDLE of port 1: channel 1 holds 100 with its idle action HOLD (R64, R99). -/
theorem test_mode_idle :
    after (.mode 1 (sealedFrame kindMode [] 9 2 [0])) op (fun t => ((t.chan 1).drive, (t.chan 1).forced)) =
      some (.forced, some ⟨.hold, some 100⟩) := by decide +kernel

/-- CLAIM of the free channels 2 and 15 (R27, R32 case 1). -/
theorem test_claim :
    after (.claim 0 (fr kindClaim (claimPayload 7 0x8004 0 0))) op
        (fun t => ((t.chan 2).own, (t.chan 15).own, resultOn 0 t)) =
      some (.owned 0, .owned 0, some .granted) := by decide +kernel

/-- CLAIM with PREEMPT of channel 1, whose owner has priority 2 against 3: its owner is told (R33, R34). -/
theorem test_claim_preempts :
    after (.claim 0 (fr kindClaim (claimPayload 7 0x0002 2 0))) op (fun t => ((t.chan 1).own, t.queue 1)) =
      some (.owned 0, [⟨.revoked 1 0, 0⟩]) := by decide +kernel

/-- CANCEL by port 1: the claim leaves and channel 3 is FREE again (R40, R24). -/
theorem test_cancel :
    after (.cancel 1 (sealedFrame kindCancel [] 9 2 [5])) pend (fun t => (t.claims, (t.chan 3).own)) =
      some ([], .free) := by decide +kernel

/-- RELEASE of channel 0 with a claim waiting: the claim is granted and its owner told (R43, R28, R30). -/
theorem test_release :
    after (.release 0 (fr kindRelease [0, 1])) pend (fun t => ((t.chan 0).own, (t.chan 3).own, t.queue 1)) =
      some (.owned 1, .owned 1, [⟨.granted 5 0x0009, 0⟩]) := by decide +kernel

/-- WRITE of 11111 (2B67H) to channel 0 in range V10: 10500 is stored and reported (R92). -/
theorem test_write :
    after (.write 0 (fr kindWrite [1, 0, 0x2B, 0x67])) op (fun t => ((t.chan 0).target, (t.port 0).transport)) =
      some (some 10500, .answered ⟨kindWrite, 9, .ok, true, .written [(0, 10500)]⟩ false) := by decide +kernel

/-- CONFIGURE of channel 0 to range VB10 with idle action SAFE at -500: forced at -500 (R14, R98). -/
theorem test_configure :
    after
        (.configure 0
          (fr kindConfigure (configurePayload 0
            { ChanConfig.reset with range := .driving .vb10, idleAction := .safe, safe := -500 })))
        op (fun t => ((t.chan 0).applied, (t.chan 0).forced)) =
      some (-500, some ⟨.safe, some (-500)⟩) := by decide +kernel

/-- READ of channel 1 (R17). -/
theorem test_read :
    after (.read 3 (fr kindRead [1, 1])) op (fun t => (t.port 3).transport) =
      some (.answered ⟨kindRead, 9, .ok, false, .channels [
        { channel := 1, range := .driving .vb10, own := .owned 1, drive := .follow, target := some 100, applied := 100
          readback := 0, fieldOk := true, openLoad := false, deviation := false, calDefault := false
          reservedByHead := false }]⟩ false) := by decide +kernel

/-- NOTES takes the oldest record and leaves the other (R134). -/
theorem test_notes :
    after (.notes 0 (fr kindNotes [1])) (op.modQueue 0 fun _ => [⟨.holdOn, 1⟩, ⟨.holdOff, 2⟩]) (fun t => t.queue 0) =
      some [⟨.holdOff, 2⟩] := by decide +kernel

/-- A queue of 15 takes OVERFLOW in place of a record, and counts the next (R128). -/
theorem test_overflow :
    ((appendNote ⟨.holdOff, 2⟩ (appendNote ⟨.holdOn, 1⟩ (List.replicate 15 ⟨.holdOn, 0⟩))).getLast?) =
      some ⟨.overflow 2, 1⟩ := by decide +kernel

/-- CAL BEGIN on channel 0 (R141). -/
theorem test_cal_begin :
    after (.calBegin 0 (calFr 1 [0])) op (fun t => ((t.chan 0).drive, t.cal.map CalContext.start)) =
      some (.calibrating, some 0) := by decide +kernel

/-- CAL DRIVE HIGH in range V10 drives 9500, uncorrected (R142, R82). -/
theorem test_cal_drive :
    after (.calDrive 0 (calFr 2 [1])) (calib .opened) (fun t => ((t.chan 0).applied, t.driveCode 0)) =
      some (9500, some 9500) := by decide +kernel

/-- CAL MEASURE LOW of 511 (01FFH) (R143). -/
theorem test_cal_measure :
    after (.calMeasure 0 (calFr 3 [0, 0x01, 0xFF])) (calib .low) (fun t => t.cal.map CalContext.measuredLow) =
      some (some (some 511)) := by decide +kernel

/-- CAL COMPUTE from 510 and 9490: 20000000 / 8980 = 2227.2 ppm and 500 - 510 × 1.002227 = -11.1 units (R144). -/
theorem test_cal_compute :
    after (.calCompute 0 (calFr 4 [])) (calib .high) (fun t => t.cal.map CalContext.computed) =
      some (some (some ⟨2227, -11⟩)) := by decide +kernel

/-- Halves are rounded away from zero (R96, R144). -/
theorem test_rounding : roundDiv 5 2 = 3 ∧ roundDiv (-5) 2 = -3 ∧ roundDiv 4 3 = 1 ∧ roundDiv (-4) 3 = -1 := by
  decide +kernel

/-- CAL DEFAULT computes 0 ppm and 0 units (R145). -/
theorem test_cal_default :
    after (.calDefault 0 (calFr 5 [])) (calib .low) (fun t => t.cal.map CalContext.computed) =
      some (some (some ⟨0, 0⟩)) := by decide +kernel

/-- CAL COMMIT places no response: the port is EXECUTING (R148). -/
theorem test_cal_commit :
    after (.calCommit 0 (calFr 6 [])) (calib .computed) (fun t => ((t.port 0).transport, t.cal.map CalContext.phase)) =
      some (.executing 9, some .committing) := by decide +kernel

/-- CAL ABORT forces channel 0 with HOLD (R146, R102). -/
theorem test_cal_abort :
    after (.calAbort 0 (calFr 7 [])) (calib .low) (fun t => (t.cal, (t.chan 0).forced)) =
      some (none, some ⟨.hold, some 0⟩) := by decide +kernel

/-- A CAL step the spec does not name (R140). -/
theorem test_cal_unknown :
    after (.calUnknownStep 0 (fr kindCal [8, 0])) (calib .low) (fun t => (t.port 0).transport) =
      some (.answered ⟨kindCal, 9, .badArg, false, .cal (some 0) (some .low)⟩ false) := by decide +kernel

/-- COMMIT_COMPLETION: generation 1 in slot 0 of a blank store (R149, R150). -/
theorem test_commit :
    after (.commitCompletion true) commit (fun t => ((t.cell 0 .v10).newer, (t.cell 0 .v10).effect, resultOn 0 t)) =
      some (some 0, ⟨2227, -11⟩, some .ok) := by decide +kernel

theorem test_commit_failed :
    after (.commitCompletion false) commit (fun t => ((t.cell 0 .v10).newer, t.cal.map CalContext.phase, resultOn 0 t)) =
      some (none, some .computed, some .storeFailed) := by decide +kernel

/-- TIMEBASE READ on a port without a session: 1 ms, 32, unit 0, released, locked by the sessions of ports 0 and 1
(R158). -/
theorem test_timebase_read :
    after (.timebaseRead 3 (sealedFrame kindTimebase [0] 9 0 [])) op (fun t => (t.port 3).transport) =
      some (.answered ⟨kindTimebase, 9, .ok, false, .timebase .ms1 .m32 0 .released true⟩ false) := by decide +kernel

/-- TIMEBASE WRITE is LOCKED while a session is open, and sets 250 us and 128 otherwise (R159, R160). -/
theorem test_timebase_write :
    after (.timebaseWrite 3 (sealedFrame kindTimebase [1] 9 0 [0, 2])) op (resultOn 3) = some (some .locked) ∧
      after (.timebaseWrite 3 (sealedFrame kindTimebase [1] 9 0 [0, 2]))
          { op with sessions := Vector.replicate 4 .closedContext }
          (fun t => (t.timebase.period, t.timebase.multiple)) =
        some (.us250, .m128) := by decide +kernel

/-- No session open, and a tick not yet taken in full: the engine's step, the timer-unit event, the arbiter's and the
session block's shares of the one before, the loss of bank A and the restore of bank B wait. Channel 4 remembers SAFE. -/
def between : State :=
  { op with
    sessions := Vector.replicate 4 .closedContext, timebase := { op.timebase with tickCount := 32 }
    banks := ((Vector.replicate 4 ⟨.ok, 0⟩).set 0 ⟨.ok, 2⟩).set 1 ⟨.lost, 8⟩
    chans :=
      ((Vector.replicate 16 Chan.reset).set 2 loose).set 4
        { Chan.reset with config := { ChanConfig.reset with range := .driving .v10 }, forced := some ⟨.safe, none⟩ }
    stepDue := true, waitsDue := true, leasesDue := true, renewed := Vector.replicate 4 true }

/-- The tick is taken in full under the old parameters, and nothing of it outlives the WRITE (R61, R160). -/
theorem test_timebase_write_tick :
    after (.timebaseWrite 3 (sealedFrame kindTimebase [1] 9 0 [0, 2])) between
        (fun t => (t.timebase.unitCounter, t.timebase.tickCount, t.leasesDue, t.renewed[0], (t.bank 0).field,
          (t.chan 4).drive)) =
      some (1, 0, false, false, .lost, .forced) := by decide +kernel

theorem test_timebase_unknown :
    after (.timebaseUnknownVariant 3 (fr kindTimebase [2])) op (resultOn 3) = some (some .badArg) := by decide +kernel

/-- STATUS of port 1 in `pend`: one claim pending, one in the list, no context (R172). -/
theorem test_status :
    after (.status 1 (fr kindStatus [])) pend (fun t => (t.port 1).transport) =
      some (.answered ⟨kindStatus, 9, .ok, false, .status
        { session := ⟨.run, 2, 2, 20, 20⟩, pendingClaims := 1, queueCount := 0, crcErrors := 0, frameErrors := 0
          overruns := 0, hold := .released, banks := Vector.replicate 4 .ok, listLength := 1
          contextInUse := false }⟩ false) := by decide +kernel

/-- An unknown kind is answered FORMAT (R167). -/
theorem test_unknown_kind :
    after (.unknownKindFrame 0 5 (fr 5 [])) op (resultOn 0) = some (some .format) := by decide +kernel

/-- A discarded frame is counted, and the count stays at 255 (R164, R165). -/
theorem test_frame_error :
    after (.frameError 0 [3, 0]) op (fun t => (t.port 0).frameErrors) = some 1 ∧
      after (.frameError 0 [3, 0]) (op.modPort 0 fun x => { x with frameErrors := 255 })
          (fun t => (t.port 0).frameErrors) = some 255 := by decide +kernel

theorem test_crc_error :
    after (.crcErrorFrame 0 kindRefresh (broken kindRefresh (fr kindRefresh []))) op
        (fun t => ((t.port 0).crcErrors, (t.session 0).counter)) = some (1, 7) := by decide +kernel

/-- FETCH on a READY port gives the NONE frame 00H 00H 04H, flags, L = 0 (R170, R175). -/
theorem test_fetch :
    after (.fetch 0) op (fun t => (t.port 0).sending.map SentFrame.body) =
      some (some [0x00, 0x00, 0x04, 0x00, 0x00]) := by decide +kernel

/-- SDO carries the frame after the fetch code, FFH during it, beyond the frame and in a request selection (R170). -/
theorem test_sdo :
    after (.fetch 0) op (fun t => (t.sdo 0 [], t.sdo 0 [0xA5, 0, 0], t.sdo 0 (0xA5 :: List.replicate 7 0), t.sdo 0 [3])) =
      some (0xFF, 0x04, 0xFF, 0xFF) := by decide +kernel

/-- A response clocked out leaves the port READY (R170). -/
theorem test_clocked_out :
    after (.responseClockedOut 0)
        (op.modPort 0 fun x =>
          { x with
            transport := .answered ⟨kindRefresh, 9, .ok, false, .empty⟩ false
            sending := some ⟨kindRefresh, 9, .ok, false, false, false, false, .empty⟩ })
        (fun t => (t.port 0).transport) = some .ready := by decide +kernel

/-- UPDATE_TICK: channel 1 follows a target of 500 by its slew limit of 7, and the bank of channel 4 counts a low level
(R81, R114). -/
theorem test_update_tick :
    after (.updateTick #v[true, false, true, true] (Vector.replicate 16 0) .whole)
        (op.modChan 1 fun r => { r with config := { r.config with slewLimit := 7 }, target := some 500 })
        (fun t => ((t.chan 1).applied, (t.bank 1).count, t.timebase.tickCount)) =
      some (107, 1, 1) := by decide +kernel

/-- The engine takes the step that waits, and the monitor and the timebase do not take the tick again (R156). -/
theorem test_step_now :
    after (.updateTick #v[false, false, true, true] (Vector.replicate 16 0) .stepNow)
        { op.modChan 1 (fun r => { r with target := some 500 }) with stepDue := true }
        (fun t => ((t.chan 1).applied, (t.bank 1).count, t.timebase.tickCount, t.stepDue)) =
      some (500, 0, 0, false) := by decide +kernel

/-- The engine's step finds the monitor's event of the tick over: HANDOVER_DONE follows the OPEN_LOAD record (R113, R120). -/
theorem test_step_after_flags :
    after (.updateTick (Vector.replicate 4 true) (Vector.replicate 16 0) .stepNow)
        { op.modChan 1 (fun r => { r with drive := .ramping, target := some 150, openLoadCount := 4 }) with
          stepDue := true }
        (fun t => ((t.chan 1).openLoad, t.queue 1)) =
      some (true, [⟨.openLoad 1 true, 0⟩, ⟨.handoverDone 1 150, 0⟩]) := by decide +kernel

/-- A loop-sense level beyond the range of a readback is limited (R10). -/
theorem test_readback :
    after (.updateTick (Vector.replicate 4 true) (Vector.replicate 16 (-13000)) .whole) op
        (fun t => ((t.chan 1).readback, (t.chan 3).readback)) = some (-12000, 0) := by decide +kernel

/-- TIMER_UNIT_EVENT at 32 ticks: unit 1, the leases fall, that of an EXECUTING port does not (R156, R157, R67). -/
theorem test_timer_unit :
    after .timerUnitEvent
        ({ op with timebase := { op.timebase with tickCount := 32 } }.modPort 1 fun x =>
          { x with transport := .executing 9 })
        (fun t => (t.timebase.unitCounter, (t.session 0).counter, (t.session 1).counter)) =
      some (1, 6, 20) := by decide +kernel

/-- The timer-unit event would end the lease of port 0: the session block takes it at LAPSE (R67, R157). -/
def lapsing : State := { op.modSession 0 fun x => { x with counter := 1 } with leasesDue := true }

/-- The session block's share of a timer-unit event that ends a lease waits (R157). -/
theorem test_timer_unit_lease :
    after .timerUnitEvent { op.modSession 0 (fun x => { x with counter := 1 }) with
          timebase := { op.timebase with tickCount := 32 } }
        (fun t => (t.timebase.unitCounter, (t.session 0).counter, t.leasesDue, t.waitsDue)) =
      some (1, 1, true, false) := by decide +kernel

/-- LAPSE of port 0: channel 0 goes to SAFE, its lapse action, and LEASE_LAPSED joins the queue (R68, R2) behind the
record of the flag change that the tick made while port 0 owned the channel (R125). -/
theorem test_lapse :
    after .lapse (lapsing.modChan 0 fun r => { r with openLoadCount := 4 })
        (fun t => ((t.session 0).state, (t.chan 0).forced, t.queue 0, (t.session 1).counter)) =
      some (.lapsed, some ⟨.safe, some 0⟩, [⟨.openLoad 0 true, 0⟩, ⟨.leaseLapsed, 0⟩], 19) := by decide +kernel

/-- A REFRESH taken before the session block's share of the timer-unit event renews the lease (R66, R69). -/
theorem test_refresh_before_lapse :
    after (.refresh 0 (fr kindRefresh [])) lapsing (fun t => ((t.session 0).counter, t.leasesDue, t.renewed[0])) =
      some (10, true, true) := by decide +kernel

/-- A lease period of 1 that was renewed after the timer-unit event fell due. -/
def renewedLease : State :=
  { lapsing.modSession 0 fun x => { x with lease := 1 } with renewed := State.reset.renewed.set 0 true }

/-- No lapse occurs at this timer-unit event (R69); at the next one it does (R67). -/
theorem test_lapse_renewed :
    after .lapse renewedLease (fun t => ((t.session 0).state, (t.session 0).counter, t.renewed[0], t.queue 0)) =
      some (.idle, 1, false, []) := by decide +kernel

/-- CLAIM_WAIT_EXPIRY (R46). -/
theorem test_claim_expiry :
    after .claimWaitExpiry { pend with claims := [{ waiting with wait := some 1 }], waitsDue := true }
        (fun t => (t.claims, (t.chan 3).own, t.queue 1)) =
      some ([], .free, [⟨.claimExpired 5, 0⟩]) := by decide +kernel

/-- A WRITE taken before the expiry of the handover timer leaves the expiry due, its target present (R90). -/
theorem test_write_before_expiry :
    after (.write 1 (sealedFrame kindWrite [] 9 2 (writePayload [(1, 500)])))
        (op.modChan 1 fun r => { r with drive := .holding, held := some 100, timer := some 0, target := none })
        (fun t => ((t.chan 1).drive, (t.chan 1).timer, (t.chan 1).target, t.queue 1)) =
      some (.holding, some 0, some 500, []) := by decide +kernel

/-- HANDOVER_TIMER_EXPIRY with a target starts a ramp, and without one reports the stall (R85, R86). -/
theorem test_handover_expiry :
    after (.handoverTimerExpiry 1)
          (op.modChan 1 fun r => { r with drive := .holding, held := some 100, timer := some 0 })
          (fun t => ((t.chan 1).drive, t.queue 1)) =
        some (.ramping, [⟨.handoverForced 1 100, 0⟩]) ∧
      after (.handoverTimerExpiry 1)
          (op.modChan 1 fun r => { r with drive := .holding, held := some 100, timer := some 0, target := none })
          (fun t => ((t.chan 1).drive, t.queue 1)) =
        some (.holding, [⟨.handoverStalled 1 100, 0⟩]) := by decide +kernel

/-- FIELD_LOSS of bank A at its second low tick: channels OFF at 0, both owners told (R114, R115, R117). -/
theorem test_field_loss :
    after (.fieldLoss 0) (op.modBank 0 fun _ => ⟨.ok, 2⟩)
        (fun t => ((t.chan 1).drive, (t.chan 1).applied, (t.chan 0).forced, t.queue 0, t.queue 1)) =
      some (.off, 0, some ⟨.hold, none⟩, [⟨.fieldLost 0, 0⟩], [⟨.fieldLost 0, 0⟩]) := by decide +kernel

/-- FIELD_RESTORE of bank A at its eighth high tick: channel 1 holds 0 in handover, channel 2 takes its remembered SAFE
(R106, R114, R119). -/
theorem test_field_restore :
    after (.fieldRestore 0) ((op.loseField 0).modBank 0 fun _ => ⟨.lost, 8⟩)
        (fun t => ((t.chan 1).drive, (t.chan 1).held, (t.chan 2).forced, t.queue 1)) =
      some (.holding, some 0, some ⟨.safe, some 0⟩, [⟨.fieldLost 0, 0⟩, ⟨.fieldRestored 0, 0⟩]) := by decide +kernel

/-- OPEN_LOAD_FLAG_CHANGE at the fourth count (R122). -/
theorem test_open_load :
    after (.openLoadFlagChange 1) (op.modChan 1 fun r => { r with openLoadCount := 4 })
        (fun t => ((t.chan 1).openLoad, (t.chan 1).openLoadCount, t.queue 1)) =
      some (true, 0, [⟨.openLoad 1 true, 0⟩]) := by decide +kernel

/-- DEVIATION_FLAG_CHANGE at the third count (R124). -/
theorem test_deviation :
    after (.deviationFlagChange 1) (op.modChan 1 fun r => { r with deviationCount := 3, deviation := true })
        (fun t => ((t.chan 1).deviation, t.queue 1)) =
      some (false, [⟨.deviation 1 false, 0⟩]) := by decide +kernel

/-- HOLD_ASSERTION tells every open session; no tick follows (R161). -/
theorem test_hold :
    after .holdAssertion op (fun t => (t.queue 0, t.queue 2)) = some ([⟨.holdOn, 0⟩], []) ∧
      after (.updateTick (Vector.replicate 4 true) (Vector.replicate 16 0) .whole)
          { op with timebase := { op.timebase with hold := .asserted } } (fun t => t.timebase.tickCount) =
        some 0 := by decide +kernel

theorem test_hold_release :
    after .holdRelease { op with timebase := { op.timebase with hold := .asserted } } (fun t => t.timebase.hold) =
      some .released := by decide +kernel

/-- A valid slot of channel 0, V10 (R147). -/
def written (g : Byte) (k : Coeff) : Slot :=
  { channel := 0, range := .v10, generation := g, coeff := k, check := Config.checkWord 0 0 g k.gain k.offset }

def loading (slots : Vector Slot 2) : State :=
  { State.reset.modCell 0 .v10 fun k => { k with slots := slots } with resetAsserted := false }

/-- START_UP_LOAD_COMPLETION over a store with no valid slot (R147, R154). -/
theorem test_start_up :
    after .startUpLoadCompletion (loading #v[.blank 0, { written 1 ⟨3, 4⟩ with range := .vb10 }])
        (fun t => ((t.cell 0 .v10).newer, (t.cell 0 .v10).effect, t.starting)) =
      some (none, ⟨0, 0⟩, false) := by decide +kernel

/-- Two valid slots of generations 255 and 0: 0 follows 255, so slot 1 is the newer (R147). -/
theorem test_newer :
    ({ Cell.blank 0 with slots := #v[written 255 ⟨1, 2⟩, written 0 ⟨3, 4⟩] } : Cell).load 0 .v10 =
      { slots := #v[written 255 ⟨1, 2⟩, written 0 ⟨3, 4⟩], newer := some 1, effect := ⟨3, 4⟩ } := by
  simp [Cell.load, newerSlot, Slot.valid, Slot.agreeing, written, DriveRange.place]

/-- The first of two commands waiting is taken (notes/assumptions/19.md). -/
theorem test_step :
    (match step { op with pending := [.refresh 0 (fr kindRefresh []), .lapse] } with
      | .next t => some ((t.session 0).counter, t.pending)
      | _ => none) = some (10, [.lapse]) := by decide +kernel

/-! ## States and operands that meet the hypotheses of the statements -/

theorem witness_StepTakesFront :
    ({ op with pending := [.lapse, .claimWaitExpiry] } : State).pending = .lapse :: [.claimWaitExpiry] ∧
      op.pending = [] := ⟨rfl, rfl⟩

theorem witness_ResetTakesResetValues :
    commit.cal = some (context .committing) ∧ (context .committing).phase = .committing ∧
      (context .committing).computed = some ⟨2227, -11⟩ ∧ op.cal = none := by decide +kernel

theorem witness_StartUpFollowsReset :
    State.reset.resetAsserted ∧ (loading #v[.blank 0, .blank 0]).flagsDue = false ∧
      (loading #v[.blank 0, .blank 0]).starting ∧ (loading #v[.blank 0, .blank 0]).resetAsserted = false := by
  decide +kernel

/-- Both slots valid with the generation of the second one above, the same and one below; one valid; none. -/
theorem witness_StartUpFollowsReset_slots :
    let good := fun (k : Vector Slot 2) (i : Fin 2) =>
      k[i].channel = 0 ∧ k[i].range = .v10 ∧
        k[i].check = Config.checkWord 0 DriveRange.v10.place k[i].generation k[i].coeff.gain k[i].coeff.offset
    let wrap := #v[written 255 ⟨1, 2⟩, written 0 ⟨3, 4⟩]
    let back := #v[written 1 ⟨1, 2⟩, written 0 ⟨3, 4⟩]
    let first := #v[written 1 ⟨1, 2⟩, { written 2 ⟨3, 4⟩ with range := .vb10 }]
    let second := #v[.blank 0, written 2 ⟨3, 4⟩]
    let neither := #v[.blank 0, .blank 0]
    (good wrap 0 ∧ good wrap 1 ∧ wrap[1].generation = wrap[0].generation + 1) ∧
      (good back 0 ∧ good back 1 ∧ back[1].generation ≠ back[0].generation + 1) ∧
      (good first 0 ∧ ¬good first 1) ∧ (¬good second 0 ∧ good second 1) ∧
      (¬good neither 0 ∧ ¬good neither 1) ∧ ((loading wrap).cell 0 .v10).slots = wrap :=
  ⟨⟨⟨rfl, rfl, rfl⟩, ⟨rfl, rfl, rfl⟩, rfl⟩, ⟨⟨rfl, rfl, rfl⟩, ⟨rfl, rfl, rfl⟩, by decide⟩,
    ⟨⟨rfl, rfl, rfl⟩, fun h => absurd h.2.1 (by decide)⟩,
    ⟨fun h => absurd h.1 (by decide), rfl, rfl, rfl⟩,
    ⟨fun h => absurd h.1 (by decide), fun h => absurd h.1 (by decide)⟩, rfl⟩

theorem witness_OpenBeginsSession :
    let f := fr kindOpen [7, 1]
    op.takes 3 kindOpen [] f ∧ f.payload = [7, 1] ∧ op.sessionOpen 3 = false ∧ (7 : Byte).toNat ≤ 7 ∧
      (1 : Byte) ≠ 0 := by decide +kernel

/-- Every channel of `op` is one of four. -/
theorem chan_op (c : Channel) :
    op.chan c = held ∨ op.chan c = following ∨ op.chan c = loose ∨ op.chan c = Chan.reset := by
  revert c; decide +kernel

theorem witness_sound : op.Sound where
  owners := by
    refine ⟨?_, by simp [op, State.reset]⟩
    show ∀ c p, (op.chan c).own = .owned p → op.sessionOpen p = true
    decide +kernel
  off := by
    show ∀ c, (op.chan c).drive = .off ↔ (op.chan c).config.range = .off ∨ op.bankOk c = false
    decide +kernel
  fields c := by
    rcases chan_op c with h | h | h | h <;> rw [h]
    · exact ⟨.hold, rfl, rfl, rfl⟩
    · exact ⟨rfl, rfl, rfl, rfl⟩
    · exact ⟨.safe, rfl, rfl, rfl⟩
    · exact ⟨rfl, rfl, rfl, fun x h => (nomatch h), fun _ => rfl⟩
  drive c := by
    have e : (op.chan c).owner = some 0 ∧ (op.chan c).drive = .forced ∨
        (op.chan c).owner = some 1 ∧ (op.chan c).drive = .follow ∨
        (op.chan c).owner = none ∧ ((op.chan c).drive = .off ∨ (op.chan c).drive = .forced) := by
      revert c; decide +kernel
    rcases e with ⟨h₁, h₂⟩ | ⟨h₁, h₂⟩ | ⟨h₁, h₂ | h₂⟩ <;> rw [h₁, h₂]
    · decide +kernel
    · decide +kernel
    · decide
    · decide
  named := by
    show ∀ c, (op.chan c).drive = .calibrating → op.calNames c
    decide +kernel
  context := fun x h => nomatch h
  executing := by
    have : ∀ p, (op.port p).isExecuting = false := by decide +kernel
    intro p h
    simp [this] at h
  leases := by
    show ∀ p, op.sessionOpen p → 1 ≤ (op.session p).counter ∧ (op.session p).counter ≤ (op.session p).lease
    decide +kernel
  renewals := by
    show ∀ p : Port, op.renewed[p] → op.unitDue ∨ op.leasesDue
    decide +kernel

theorem witness_values : op.ValuesWithin := by
  refine ⟨fun c => ?_, fun x h => nomatch h⟩
  rcases chan_op c with h | h | h | h <;> rw [h]
  all_goals
    refine ⟨by decide +kernel, by decide +kernel, fun v h => ?_, fun v h => ?_⟩
    all_goals first
      | (cases h; done)
      | (cases h; decide +kernel)

theorem witness_queues : op.QueuesBounded := by
  show ∀ p, (op.queue p).length ≤ 16 ∧ ((op.queue p).length = 16 → (overflowTail (op.queue p)).isSome)
  decide +kernel

theorem witness_arbitrated : pend.Arbitrated where
  order := by
    refine ⟨by decide +kernel, by simp [pend], ?_⟩
    show ∀ k ∈ pend.claims, k.arrival < pend.arrivals
    decide +kernel
  owners := by
    constructor
    · show ∀ c p, (pend.chan c).own = .owned p → pend.sessionOpen p = true
      decide +kernel
    · show ∀ k ∈ pend.claims, pend.sessionOpen k.port = true ∧ k.epoch = (pend.session k.port).epoch
      decide +kernel
  reserved := by
    show ∀ c, (pend.chan c).own = .reserved ↔ pend.wantedByHead c = true
    decide +kernel
  disjoint := by
    refine ⟨?_, by simp [pend], ?_⟩
    · show ∀ p, (pend.claims.filter fun k => decide (k.port = p)).length ≤ 4
      decide +kernel
    · show ∀ k ∈ pend.claims, k.tag ≠ 0 ∧ k.set ≠ 0 ∧ ∀ c, inSet k.set c → (pend.chan c).own ≠ .owned k.port
      decide +kernel

/-- A step from a state that meets an invariant: the commands of the queue run on. -/
theorem witness_invariants : ∃ t, step { pend with pending := [.claimWaitExpiry] } = .next t := ⟨_, rfl⟩

theorem witness_CloseEndsSession :
    let f := fr kindClose []
    let g := sealedFrame kindClose [] 9 3 []
    (op.takes 0 kindClose [] f ∧ f.payload = [] ∧ op.admits 0 f) ∧
      op.takes 2 kindClose [] g ∧ g.payload = [] ∧ (op.session 2).state = .lapsed ∧
        g.epoch = (op.session 2).epoch := by decide +kernel

theorem witness_RefreshRenewsLease :
    let f := fr kindRefresh []
    let due := { lapsing with timebase := { op.timebase with tickCount := 32 } }
    (op.takes 0 kindRefresh [] f ∧ f.payload = [] ∧ op.admits 0 f) ∧
      due.takes 0 kindRefresh [] f ∧ due.admits 0 f ∧ 1 ≤ (due.session 0).lease ∧ due.leasesDue ∧
        due.timebase.multiple = .m32 ∧ 32 ≤ due.timebase.tickCount := by decide +kernel

theorem witness_ModeMovesSession :
    let f := fr kindMode [1]
    let g := sealedFrame kindMode [] 9 2 [0]
    (op.takes 0 kindMode [] f ∧ f.payload = [1] ∧ op.admits 0 f ∧ (op.session 0).state = .idle ∧
        op.holdsCal 0 = false) ∧
      op.takes 1 kindMode [] g ∧ g.payload = [0] ∧ op.admits 1 g ∧ (op.session 1).state = .run := by decide +kernel

theorem witness_SessionRequestChecks_open :
    (op.takes 0 kindOpen [] (fr kindOpen [8, 0]) ∧ op.sessionOpen 0) ∧
      (op.takes 3 kindOpen [] (fr kindOpen [8, 1]) ∧ op.sessionOpen 3 = false ∧ 7 < (8 : Byte).toNat) ∧
      op.takes 3 kindOpen [] (fr kindOpen [7, 0]) := by decide +kernel

theorem witness_SessionRequestChecks_mode :
    let other := sealedFrame kindMode [] 9 2 [1]
    (op.takes 0 kindMode [] (fr kindMode [2]) ∧ op.admits 0 (fr kindMode [2]) ∧ 1 < (2 : Byte).toNat) ∧
      (op.takes 0 kindMode [] (fr kindMode [0]) ∧ op.admits 0 (fr kindMode [0]) ∧ (op.session 0).state = .idle) ∧
      (op.takes 1 kindMode [] other ∧ op.admits 1 other ∧ (op.session 1).state = .run) ∧
      ((calib .low).takes 0 kindMode [] (fr kindMode [1]) ∧ (calib .low).admits 0 (fr kindMode [1]) ∧
        ((calib .low).session 0).state = .idle ∧ (calib .low).holdsCal 0) := by decide +kernel

/-- A CLAIM frame of port 0. -/
def claimFr (set : ChanSet) (flags : Byte) : Frame := fr kindClaim (claimPayload 7 set flags 255)

/-- The checks of R31 pass for a set without channel 0, in `op` and in `pend`. -/
theorem passes (s : State) (h : s = op ∨ s = pend) (set : ChanSet) (flags : Byte)
    (k : set ∈ [0x8004, 0x0008, 0x0002, 0xFFFE]) (l : flags.toNat ≤ 3) : s.ClaimPasses 0 7 set flags := by
  simp only [List.mem_cons, List.not_mem_nil, or_false] at k
  rcases h with rfl | rfl <;> rcases k with rfl | rfl | rfl | rfl <;>
    exact ⟨by decide, by decide, l, by decide +kernel, by decide +kernel, by decide +kernel⟩

theorem witness_ClaimGrantedAtOnce :
    op.takes 0 kindClaim [] (claimFr 0x8004 0) ∧ (claimFr 0x8004 0).payload = claimPayload 7 0x8004 0 255 ∧
      op.admits 0 (claimFr 0x8004 0) ∧ op.ClaimPasses 0 7 0x8004 0 ∧ op.GrantableAt 0 0x8004 :=
  ⟨by decide +kernel, by decide +kernel, by decide +kernel, passes _ (.inl rfl) _ _ (by simp) (by decide),
    grantable_iff.1 (by decide +kernel)⟩

/-- A reserved channel, for a claim of higher priority than the head's. -/
theorem witness_ClaimGrantedAtOnce_reserved :
    pend.takes 0 kindClaim [] (claimFr 0x0008 0) ∧ pend.admits 0 (claimFr 0x0008 0) ∧
      pend.ClaimPasses 0 7 0x0008 0 ∧ pend.GrantableAt 0 0x0008 ∧ (pend.chan 3).own = .reserved :=
  ⟨by decide +kernel, by decide +kernel, passes _ (.inr rfl) _ _ (by simp) (by decide),
    grantable_iff.1 (by decide +kernel), by decide +kernel⟩

theorem not_grantable (set : ChanSet) (h : set ∈ [0x0002, 0xFFFE]) : ¬op.GrantableAt 0 set := by
  simp only [List.mem_cons, List.not_mem_nil, or_false] at h
  rcases h with rfl | rfl <;> exact fun k => absurd (grantable_iff.2 k) (by decide +kernel)

theorem witness_ClaimPreempts :
    op.takes 0 kindClaim [] (claimFr 0xFFFE 3) ∧ op.admits 0 (claimFr 0xFFFE 3) ∧ op.ClaimPasses 0 7 0xFFFE 3 ∧
      ¬op.GrantableAt 0 0xFFFE ∧ (3 : Byte).getLsbD 1 ∧ op.PreemptionPasses 0 0xFFFE :=
  ⟨by decide +kernel, by decide +kernel, passes _ (.inl rfl) _ _ (by simp) (by decide), not_grantable _ (by simp),
    by decide, preempts_iff.1 (by decide +kernel)⟩

/-- With WAIT and without PREEMPT the same set joins the list, and without both it is BUSY. -/
theorem witness_ClaimJoinsList :
    op.takes 0 kindClaim [] (claimFr 0x0002 1) ∧ op.admits 0 (claimFr 0x0002 1) ∧ op.ClaimPasses 0 7 0x0002 1 ∧
      ¬op.GrantableAt 0 0x0002 ∧ ¬((1 : Byte).getLsbD 1 ∧ op.PreemptionPasses 0 0x0002) ∧ (1 : Byte).getLsbD 0 ∧
      op.claims.length < 8 ∧ (op.claims.filter fun k => decide (k.port = 0)).length < 4 :=
  ⟨by decide +kernel, by decide +kernel, passes _ (.inl rfl) _ _ (by simp) (by decide), not_grantable _ (by simp),
    fun h => absurd h.1 (by decide), by decide, by decide +kernel, by decide +kernel⟩

theorem witness_ClaimJoinsList_arbitrated : op.Arbitrated where
  order := ⟨by decide +kernel, by simp [op, State.reset], by simp [op, State.reset]⟩
  owners := witness_sound.owners
  reserved := by
    show ∀ c, (op.chan c).own = .reserved ↔ op.wantedByHead c = true
    decide +kernel
  disjoint := ⟨by simp [op, State.reset], by simp [op, State.reset], by simp [op, State.reset]⟩

/-- Eight claims, four of port 0, all with tags of their own: the list is full. -/
def full : State :=
  { op with
    claims := (List.range 8).map fun n =>
      { tag := natByte (n + 10), port := if n < 4 then 0 else 1, epoch := if n < 4 then 1 else 2
        priority := if n < 4 then 3 else 2, set := 0x0004, wait := none, arrival := n } }

theorem witness_ClaimRefusals_checks :
    (op.takes 0 kindClaim [] (fr kindClaim (claimPayload 0 0x0004 3 0)) ∧ (0 : Byte) = 0) ∧
      (op.takes 0 kindClaim [] (claimFr 0x0000 3) ∧ op.takes 0 kindClaim [] (claimFr 0x0004 4) ∧
        3 < (4 : Byte).toNat) ∧
      (op.takes 0 kindClaim [] (claimFr 0x0005 0) ∧ inSet 0x0005 0 ∧ (op.chan 0).own = .owned 0) ∧
      (full.takes 0 kindClaim [] (claimFr 0x0004 0) ∧ full.admits 0 (claimFr 0x0004 0) ∧
        (∃ k ∈ full.claims, full.ownsClaim 0 k ∧ ∃ c, inSet 0x0004 c ∧ inSet k.set c)) ∧
      (full.takes 0 kindClaim [] (fr kindClaim (claimPayload 10 0x0008 0 0)) ∧
        (∃ k ∈ full.claims, full.ownsClaim 0 k ∧ k.tag = 10) ∧
        ¬((∃ c, inSet 0x0008 c ∧ (full.chan c).own = .owned 0) ∨
          ∃ k ∈ full.claims, full.ownsClaim 0 k ∧ ∃ c, inSet 0x0008 c ∧ inSet k.set c)) := by decide +kernel

theorem witness_ClaimRefusals_cases :
    (full.takes 0 kindClaim [] (claimFr 0x0002 1) ∧ full.admits 0 (claimFr 0x0002 1) ∧
        full.ClaimPasses 0 7 0x0002 1 ∧ ¬full.GrantableAt 0 0x0002 ∧ (1 : Byte).getLsbD 0 ∧
        8 ≤ full.claims.length ∧ 4 ≤ (full.claims.filter fun k => full.ownsClaim 0 k).length) ∧
      op.takes 0 kindClaim [] (claimFr 0x0002 0) ∧ op.ClaimPasses 0 7 0x0002 0 ∧ ¬op.GrantableAt 0 0x0002 ∧
        (0 : Byte).getLsbD 0 = false :=
  ⟨⟨by decide +kernel, by decide +kernel,
      ⟨by decide, by decide, by decide, by decide +kernel, by decide +kernel, by decide +kernel⟩,
      fun k => absurd (grantable_iff.2 k) (by decide +kernel), by decide, by decide +kernel, by decide +kernel⟩,
    by decide +kernel, passes _ (.inl rfl) _ _ (by simp) (by decide), not_grantable _ (by simp), by decide⟩

theorem witness_CancelRemovesClaim :
    let f := fun tag : Byte => sealedFrame kindCancel [] 9 2 [tag]
    (pend.takes 1 kindCancel [] (f 5) ∧ pend.admits 1 (f 5) ∧ ∃ k ∈ pend.claims, pend.ownsClaim 1 k ∧ k.tag = 5) ∧
      (pend.takes 1 kindCancel [] (f 0) ∧ pend.admits 1 (f 0)) ∧
      pend.takes 1 kindCancel [] (f 6) ∧ ¬∃ k ∈ pend.claims, pend.ownsClaim 1 k ∧ k.tag = 6 := by decide +kernel

theorem witness_ReleaseFreesChannels :
    let f := fun set : ChanSet => fr kindRelease (halfBytes set)
    (op.takes 0 kindRelease [] (f 0) ∧ op.admits 0 (f 0)) ∧
      (op.takes 0 kindRelease [] (f 3) ∧ ¬∀ c, inSet 3 c → (op.chan c).own = .owned 0) ∧
      ((calib .low).takes 0 kindRelease [] (f 1) ∧ (∀ c, inSet 1 c → ((calib .low).chan c).own = .owned 0) ∧
        ∃ c, inSet 1 c ∧ (calib .low).calNames c) ∧
      op.takes 0 kindRelease [] (f 1) ∧ (∀ c, inSet 1 c → (op.chan c).own = .owned 0) ∧
        ¬∃ c, inSet 1 c ∧ op.calNames c := by decide +kernel

/-- Of two claims the first takes the channel; a head that waits for channel 0 keeps channel 3 from the claim behind. -/
theorem witness_GrantPassSettles_walk :
    let second := { waiting with tag := 6, arrival := 1, set := 0x0008 }
    ({ pend with claims := [{ waiting with set := 0x0008 }, second] } : State).grantPass.claims = [second] ∧
      ({ pend with claims := [waiting, second] } : State).grantPass.claims = [waiting, second] := by decide +kernel

theorem witness_GrantPassSettles :
    (op.chan 1).owner.isSome ∧ (op.chan 2).owner = none ∧ waiting ∈ pend.claims ∧
      pend.grantPass.claims = [waiting] ∧ ({ pend with claims := [{ waiting with set := 0x0008 }] } : State).grantPass.claims = [] := by
  decide +kernel

theorem witness_WriteStoresTargets :
    let l : List (Channel × Int) := [(0, 32767)]
    let f := fr kindWrite (writePayload l)
    op.takes 0 kindWrite [] f ∧ f.payload = writePayload l ∧ op.admits 0 f ∧ 1 ≤ l.length ∧ l.length ≤ 8 ∧
      (l.map Prod.fst).Nodup ∧ (∀ x ∈ l, -32768 ≤ x.2 ∧ x.2 ≤ 32767) ∧
      (∀ x ∈ l, (op.chan x.1).own = .owned 0) ∧ ∀ x ∈ l, (op.chan x.1).config.range ≠ .off := by decide +kernel

/-- A record of the same range, one of range OFF, one of another driving range, each at bounds of R13. -/
def records : List ChanConfig :=
  [{ ChanConfig.reset with range := .driving .v10, matchWindow := 2000, safe := 10500, deviationLimit := 50 },
    { ChanConfig.reset with range := .off, slewLimit := 10000, rampStep := 1, timeout := 255 },
    { ChanConfig.reset with range := .driving .i420, matchWindow := 1, safe := -2500, deviationLimit := 2000 }]

theorem witness_ConfigureReplacesRecord :
    ∀ k ∈ records,
      let f := fr kindConfigure (configurePayload 0 k)
      op.takes 0 kindConfigure [] f ∧ f.payload = configurePayload 0 k ∧ op.admits 0 f ∧
        (1 ≤ k.matchWindow ∧ k.matchWindow ≤ 2000 ∧ k.slewLimit ≤ 10000 ∧ 1 ≤ k.rampStep ∧ k.rampStep ≤ 10000 ∧
          k.timeout ≤ 255 ∧ 50 ≤ k.deviationLimit ∧ k.deviationLimit ≤ 2000 ∧
          ((k.range = .driving .v10 ∧ 0 ≤ k.safe ∧ k.safe ≤ 10500) ∨ (k.range = .off ∧ k.safe = 0) ∨
            (k.range = .driving .i420 ∧ -2500 ≤ k.safe ∧ k.safe ≤ 10500))) ∧
        (op.chan 0).own = .owned 0 ∧ (op.session 0).state = .idle ∧ op.calNames 0 = false := by decide +kernel

/-- The first record keeps the range of channel 0, the others change it; a channel of range OFF in RUN, and a lost bank. -/
theorem witness_ConfigureReplacesRecord_clauses :
    let run := op.modChan 3 fun r => { r with own := .owned 1 }
    let f := sealedFrame kindConfigure [] 9 2 (configurePayload 3 records[2])
    records[0].range = (op.chan 0).config.range ∧ records[1].range ≠ (op.chan 0).config.range ∧
      records[2].range ≠ (op.chan 0).config.range ∧ records[2].range ≠ .off ∧ op.bankOk 0 ∧
      (op.loseField 0).bankOk 0 = false ∧
      (run.takes 1 kindConfigure [] f ∧ run.admits 1 f ∧ (run.chan 3).own = .owned 1 ∧
        (run.chan 3).config.range = .off ∧ (run.session 1).state = .run ∧ run.bankOk 3 ∧ run.calNames 3 = false) := by
  decide +kernel

/-- A record whose match window is 0, of the range given by its code, in the layout of R174. -/
theorem witness_ChannelRequestChecks_configure :
    let bad := { ChanConfig.reset with range := .driving .v10, matchWindow := 0 }
    let f := fun c : Byte => fr kindConfigure (c :: (configurePayload 0 bad).tail)
    let g := sealedFrame kindConfigure [] 9 2 (1 :: (configurePayload 0 bad).tail)
    (∀ c ∈ [(0 : Byte), 1, 16],
        op.takes 0 kindConfigure [] (f c) ∧ op.admits 0 (f c) ∧
          (f c).payload =
            [c, 1, 0, 1] ++ halfBytes 0 ++ halfBytes 0 ++ halfBytes 100 ++ [16, 0, 2, 0] ++ signedBytes 0
              ++ halfBytes 300) ∧
      15 < (16 : Byte).toNat ∧ (op.chan 1).own ≠ .owned 0 ∧ (op.chan 0).own = .owned 0 ∧
      (op.session 0).state = .idle ∧ op.calNames 0 = false ∧
      (∀ k ∈ records, op.takes 0 kindConfigure [] (fr kindConfigure (configurePayload 0 k))) ∧
      ((calib .low).takes 0 kindConfigure [] (f 0) ∧ (calib .low).calNames 0) ∧
      (op.takes 1 kindConfigure [] g ∧ op.admits 1 g ∧ (op.chan 1).own = .owned 1 ∧
        (op.session 1).state ≠ .idle ∧ (op.chan 1).config.range ≠ .off) := by decide +kernel

theorem witness_ChannelRequestChecks_write :
    let none := fr kindWrite [0]
    let far := fr kindWrite [1, 16, 0, 0]
    let twice := fr kindWrite [2, 0, 0, 0, 0, 0, 0]
    let nine := fr kindWrite (9 :: (List.range 9).flatMap fun n => [natByte n, 0, 0])
    let other := fr kindWrite [1, 1, 0, 0]
    let bare := op.modChan 3 fun r => { r with own := .owned 0 }
    let off := fr kindWrite [1, 3, 0, 0]
    (∀ f ∈ [none, far, twice, nine, other],
        op.takes 0 kindWrite [] f ∧ f.payload.length ≤ 40 ∧ (writeOperands f.payload).isSome ∧ op.admits 0 f) ∧
      (op.chan 1).own ≠ .owned 0 ∧
      (bare.takes 0 kindWrite [] off ∧ writeOperands off.payload = some [(3, 0)] ∧ bare.admits 0 off ∧
        (bare.chan 3).own = .owned 0 ∧ (bare.chan 3).config.range = .off) := by decide +kernel

theorem witness_ChannelRequestChecks_read :
    ∀ f ∈ [fr kindRead [0], fr kindRead [4, 0, 1, 2, 3], fr kindRead [1, 16]],
      op.takes 3 kindRead [] f ∧ f.payload.length ≤ 40 ∧
        ((readOperands f.payload).map fun l => decide (l = [] ∨ 3 < l.length ∨ ∃ b ∈ l, 15 < b.toNat)) = some true := by
  decide +kernel

theorem witness_ReadReportsChannels :
    ∀ l ∈ [[(15 : Channel)], [0, 1, 0]],
      let f := fr kindRead (natByte l.length :: l.map channelByte)
      op.takes 3 kindRead [] f ∧ 1 ≤ l.length ∧ l.length ≤ 3 := by decide +kernel

theorem witness_DriveEntries :
    Chan.reset.config.range = .off ∧ held.config.range ≠ .off ∧ held.drive = .forced ∧ Chan.reset.drive = .off ∧
      following.drive = .follow := by decide +kernel

/-- A channel in each drive state that a step moves; the distances at, and one above, what the record allows. -/
theorem witness_EngineStepsChannel :
    let hold := fun (m : HandoverMode) (t : Int) =>
      { following with
        drive := .holding, held := some 0, applied := 0, target := some t
        config := { following.config with handover := m, slewLimit := 10 } }
    ((hold .matching 0).drive = .holding ∧ ({ hold .matching 0 with target := none } : Chan).target = none) ∧
      (hold .step 5).config.handover = .step ∧
      ((hold .matching 100).config.handover = .matching ∧ ((100 : Int) - 0).natAbs ≤ (hold .matching 100).config.matchWindow ∧
        ¬((101 : Int) - 0).natAbs ≤ (hold .matching 101).config.matchWindow) ∧
      ((hold .ramp 101).config.handover = .ramp ∧ ¬((101 : Int) - 0).natAbs ≤ (hold .ramp 101).config.rampStep) ∧
      (({ hold .matching (-100) with drive := .ramping, held := none } : Chan).timer = none) ∧
      (following.drive = .follow ∧ following.target = some 100 ∧ following.config.slewLimit = 0) ∧
      ((calib .high).chan 0).drive = .calibrating ∧ (calib .high).calValue 0 = some 9500 := by decide +kernel

theorem witness_DriveCodeFormed :
    (op.chan 3).config.range = .off ∧ (op.chan 1).config.range = .driving .vb10 ∧
      (op.chan 1).drive ∈ [Drive.forced, .holding, .ramping, .follow] ∧ ((calib .high).chan 0).drive = .calibrating ∧
      (calib .high).cal = some (context .high) ∧ (calib .computed).cal = some (context .computed) := by decide +kernel

theorem witness_QueueTakesRecord :
    let q : Nat → List Note := fun n => List.replicate n ⟨.holdOn, 0⟩
    (q 14).length ≤ 14 ∧ (q 15).length = 15 ∧ (overflowTail (q 15)).isNone ∧
      (q 14 ++ [(⟨.overflow 254, 3⟩ : Note)]).length = 15 ∧ (q 15 ++ [(⟨.overflow 255, 3⟩ : Note)]).length = 16 ∧
      op.sessionOpen 0 ∧ op.sessionOpen 2 = false := by decide +kernel

theorem witness_NotesRemovesRecords :
    let f := fun n : Byte => fr kindNotes [n]
    (∀ n ∈ [(0 : Byte), 1, 4, 5],
        op.takes 0 kindNotes [] (f n) ∧ (f n).payload = [n] ∧ (f n).epoch = (op.session 0).epoch) ∧
      (op.session 0).state ≠ .closed := by decide +kernel

theorem witness_CalBeginOpensContext :
    let f := fun c : Byte => calFr 1 [c]
    let g := sealedFrame kindCal [1] 9 2 [1]
    let off := op.modChan 3 fun r => { r with own := .owned 0 }
    (∀ c ∈ [(0 : Byte), 1, 16], op.takes 0 kindCal [stepBegin] (f c) ∧ (f c).payload = [c] ∧ op.admits 0 (f c)) ∧
      ((calib .low).takes 0 kindCal [stepBegin] (f 0) ∧ (calib .low).cal ≠ none) ∧
      (op.cal = none ∧ (op.chan 1).own ≠ .owned 0) ∧
      (op.takes 1 kindCal [stepBegin] g ∧ op.admits 1 g ∧ (op.chan 1).own = .owned 1 ∧
        (op.session 1).state = .run) ∧
      (off.takes 0 kindCal [stepBegin] (f 3) ∧ (off.chan 3).own = .owned 0 ∧ (off.chan 3).config.range = .off) ∧
      ((op.loseField 0).takes 0 kindCal [stepBegin] (f 0) ∧ (op.loseField 0).bankOk 0 = false ∧
        ((op.loseField 0).chan 0).own = .owned 0) ∧
      ((op.chan 0).own = .owned 0 ∧ (op.session 0).state = .idle ∧ (op.chan 0).config.range = .driving .v10 ∧
        op.bankOk 0) := by decide +kernel

theorem witness_CalDriveAndMeasure :
    let x := context .low
    let drive := fun b : Byte => calFr 2 [b]
    let measure := fun (b : Byte) (v : Int) => calFr 3 (b :: signedBytes v)
    (∀ b ∈ [(0 : Byte), 1, 2], (calib .low).takes 0 kindCal [stepDrive] (drive b) ∧ (calib .low).admits 0 (drive b)) ∧
      (∀ b ∈ [(0 : Byte), 1, 2], ∀ v ∈ [(-12001 : Int), -12000, 12000, 12001],
        (calib .low).takes 0 kindCal [stepMeasure] (measure b v) ∧ (measure b v).payload = b :: signedBytes v) ∧
      (calib .low).cal = some x ∧ x.port = 0 ∧ x.epoch = ((calib .low).session 0).epoch ∧ x.phase = .low ∧
      CalPoint.low.byte = 0 ∧ CalPoint.high.byte = 1 := by decide +kernel

/-- Measured values whose corrections lie inside the limits, outside them, and with no distance between them. -/
theorem witness_CalComputeFormsCorrections :
    let f := calFr 4 []
    let s := fun mL mH : Int => { calib .high with cal := some { context .high with measuredLow := some mL, measuredHigh := some mH } }
    (∀ m ∈ [((510 : Int), (9490 : Int)), (500, 9000), (500, 500)],
        (s m.1 m.2).takes 0 kindCal [stepCompute] f ∧ (s m.1 m.2).admits 0 f) ∧
      f.payload = [] ∧ (context .high).phase ∈ [CalPhase.low, .high, .computed] ∧
      (DriveRange.v10.corrections 510 9490).inLimits ∧ ¬(DriveRange.v10.corrections 500 9000).inLimits ∧
      (500 : Int) - 500 ≤ 0 := by decide +kernel

theorem witness_CalDefaultCommitAndAbort :
    ((calib .opened).takes 0 kindCal [stepDefault] (calFr 5 []) ∧ (calib .opened).admits 0 (calFr 5 []) ∧
        (calib .opened).cal = some (context .opened) ∧ (context .opened).phase ≠ .committing) ∧
      ((calib .computed).takes 0 kindCal [stepCommit] (calFr 6 []) ∧ (calib .computed).admits 0 (calFr 6 []) ∧
        (calib .computed).cal = some (context .computed) ∧ (context .computed).phase = .computed) ∧
      ((calib .low).takes 0 kindCal [stepAbort] (calFr 7 []) ∧ (calib .low).admits 0 (calFr 7 []) ∧
        (calib .low).cal = some (context .low) ∧ (context .low).port = 0 ∧
        (context .low).epoch = ((calib .low).session 0).epoch) := by decide +kernel

/-- Port 0 holds no context in `op`; it holds one in COMMITTING, with its port READY, in `calib .committing`. -/
theorem witness_CalRefusals :
    (Instr.calUnknownStep 0 (fr kindCal [8])).wellFormed ∧
    (∀ s ∈ [op, calib .committing, calib .opened],
        s.takes 0 kindCal [] (fr kindCal [8]) ∧ s.takes 0 kindCal [stepDrive] (calFr 2 [0]) ∧
          s.takes 0 kindCal [stepMeasure] (calFr 3 [0, 0, 0]) ∧ s.takes 0 kindCal [stepCompute] (calFr 4 []) ∧
          s.takes 0 kindCal [stepDefault] (calFr 5 []) ∧ s.takes 0 kindCal [stepCommit] (calFr 6 []) ∧
          s.takes 0 kindCal [stepAbort] (calFr 7 []) ∧ s.admits 0 (fr kindCal [8])) ∧
      op.holdsCal 0 = false ∧ (calib .committing).holdsCal 0 ∧
      (calib .committing).cal = some (context .committing) ∧ (context .opened).phase = .opened := by decide +kernel

theorem witness_CommitCompletes :
    commit.flagsDue = false ∧ commit.cal = some (context .committing) ∧ (context .committing).phase = .committing ∧
      (context .committing).computed = some ⟨2227, -11⟩ ∧ (commit.port 0).transport = .executing 9 ∧
      (commit.chan 0).drive = .calibrating ∧ ((commit.loseField 0).chan 0).drive ≠ .calibrating ∧
      (commit.loseField 0).cal = commit.cal := by decide +kernel

theorem witness_TimebaseReadReports :
    let f := sealedFrame kindTimebase [0] 9 0 []
    op.takes 3 kindTimebase [variantRead] f ∧ f.payload = [] := by decide +kernel

theorem witness_TimebaseWriteSetsParameters :
    let f := fun b m : Byte => sealedFrame kindTimebase [1] 9 0 [b, m]
    let shut := { op with sessions := Vector.replicate 4 .closedContext }
    (∀ b ∈ [(4 : Byte), 5], ∀ m ∈ [(2 : Byte), 3], op.takes 3 kindTimebase [variantWrite] (f b m)) ∧
      Period.ms4.byte = 4 ∧ Multiple.m128.byte = 2 ∧ (∃ q, op.sessionOpen q) ∧
      (shut.takes 3 kindTimebase [variantWrite] (f 4 2) ∧ shut.quiet ∧ ∀ q, shut.sessionOpen q = false) ∧
      (between.takes 3 kindTimebase [variantWrite] (f 4 2) ∧ (∀ q, between.sessionOpen q = false) ∧
        between.timebase.multiple = .m32 ∧ 32 ≤ between.timebase.tickCount ∧
        ((between.bank 0).field = .ok ∧ 2 ≤ (between.bank 0).count ∧ (between.chan 2).drive = .forced) ∧
        ((between.bank 1).field = .lost ∧ 8 ≤ (between.bank 1).count ∧
          (between.chan 4).forced = some ⟨.safe, none⟩ ∧ (between.chan 5).forced = none) ∧
        (between.bank 2).field = .ok ∧ (between.bank 2).count < 2 ∧ shut.timebase.tickCount < 32) ∧
      (Instr.timebaseUnknownVariant 3 (fr kindTimebase [2])).wellFormed ∧
      op.takes 3 kindTimebase [] (fr kindTimebase [2]) := by decide +kernel

theorem witness_TimebaseWriteSetsParameters_sound : between.Sound where
  owners := by
    refine ⟨?_, by simp [between, op, State.reset]⟩
    show ∀ c p, (between.chan c).own = .owned p → between.sessionOpen p = true
    decide +kernel
  off := by
    show ∀ c, (between.chan c).drive = .off ↔ (between.chan c).config.range = .off ∨ between.bankOk c = false
    decide +kernel
  fields c := by
    have e : between.chan c = loose ∨
        between.chan c =
          { Chan.reset with config := { ChanConfig.reset with range := .driving .v10 }, forced := some ⟨.safe, none⟩ } ∨
        between.chan c = Chan.reset := by
      revert c; decide +kernel
    rcases e with h | h | h <;> rw [h]
    · exact ⟨.safe, rfl, rfl, rfl⟩
    · refine ⟨rfl, rfl, rfl, fun x h => ?_, fun h => nomatch h⟩
      cases h
      rfl
    · exact ⟨rfl, rfl, rfl, fun x h => (nomatch h), fun _ => rfl⟩
  drive c := by
    have e : (between.chan c).owner = none ∧
        ((between.chan c).drive = .off ∨ (between.chan c).drive = .forced) := by
      revert c; decide +kernel
    rcases e with ⟨h₁, h₂ | h₂⟩ <;> rw [h₁, h₂] <;> decide
  named := by
    show ∀ c, (between.chan c).drive = .calibrating → between.calNames c
    decide +kernel
  context := fun x h => nomatch h
  executing := witness_sound.executing
  leases := by
    show ∀ p, between.sessionOpen p →
      1 ≤ (between.session p).counter ∧ (between.session p).counter ≤ (between.session p).lease
    decide +kernel
  renewals := fun _ _ => .inr rfl

theorem witness_TimebaseWriteSetsParameters_arbitrated : between.Arbitrated where
  order := ⟨by decide +kernel, by simp [between, op, State.reset], by simp [between, op, State.reset]⟩
  owners := witness_TimebaseWriteSetsParameters_sound.owners
  reserved := by
    show ∀ c, (between.chan c).own = .reserved ↔ between.wantedByHead c = true
    decide +kernel
  disjoint := ⟨by simp [between, op, State.reset], by simp [between, op, State.reset], by simp [between, op, State.reset]⟩

theorem witness_StatusReportsFields :
    op.takes 2 kindStatus [] (fr kindStatus []) ∧ (fr kindStatus []).payload = [] := by decide +kernel

theorem witness_ParametersLockedBySession :
    (∃ p, op.sessionOpen p) ∧ (∀ b, Instr.fetch 0 ≠ .reset b) ∧ ∃ t, exec (.fetch 0) op = .next t :=
  ⟨by decide +kernel, by simp, _, rfl⟩

theorem witness_HoldEdgesReported :
    let on := { op with timebase := { op.timebase with hold := .asserted } }
    (op.quiet ∧ op.resetAsserted = false ∧ op.timebase.hold = .released) ∧
      (on.quiet ∧ on.resetAsserted = false ∧ on.timebase.hold = .asserted) ∧ State.reset.resetAsserted := by
  decide +kernel

/-- While the load runs; a REFRESH with a payload; a kind the spec does not name. -/
theorem witness_StartingAndFormatAnswered :
    let long := fr kindRefresh [0]
    let odd := fr 0x05 []
    (requestOf (.refresh 0 long)).isSome ∧ (Instr.refresh 0 long).wellFormed ∧
      (loading #v[.blank 0, .blank 0]).ready 0 kindRefresh [] long ∧ (loading #v[.blank 0, .blank 0]).starting ∧
      op.ready 0 kindRefresh [] long ∧ op.starting = false ∧ layoutFits kindRefresh [0] = false ∧
      (Instr.unknownKindFrame 0 0x05 odd).wellFormed ∧ op.ready 0 0x05 [] odd ∧ (0x05 : Byte) ∉ namedKinds := by
  decide +kernel

/-- Port 0 ANSWERED, with the saved copy of its last request, a REFRESH with sequence number 9. -/
def answered : State :=
  op.modPort 0 fun x =>
    { x with
      transport := .answered ⟨kindRefresh, 9, .ok, false, .empty⟩ false
      saved := some ⟨9, kindRefresh, ⟨kindRefresh, 9, .ok, false, .empty⟩⟩ }

theorem witness_OverrunsDiscarded :
    (requestOf (.refresh 0 (fr kindRefresh []))).isSome ∧ (Instr.refresh 0 (fr kindRefresh [])).wellFormed ∧
      answered.flagsDue = false ∧
      crcGood kindRefresh (withLead [] (fr kindRefresh [])) ∧ (answered.port 0).transport ≠ .ready ∧
      (commit.port 0).transport ≠ .ready := by decide +kernel

theorem witness_ReplaysAnswered :
    let s := answered.modPort 0 fun x => { x with transport := .ready }
    (requestOf (.refresh 0 (fr kindRefresh []))).isSome ∧ (Instr.refresh 0 (fr kindRefresh [])).wellFormed ∧
      s.ready 0 kindRefresh [] (fr kindRefresh []) ∧ s.starting = false ∧ layoutFits kindRefresh [] ∧
      (s.port 0).saved = some ⟨9, kindRefresh, ⟨kindRefresh, 9, .ok, false, .empty⟩⟩ ∧
      (fr kindRefresh []).seq = 9 := by decide +kernel

/-- A gated request and a CLOSE on a CLOSED, a LAPSED and an open session, with an epoch that is not the session's. -/
theorem witness_GateRefusesRequests :
    let f := fun kind : Byte => sealedFrame kind [] 9 77 []
    (∀ p ∈ [(0 : Port), 1, 2, 3],
        op.takes p kindRefresh [] (f kindRefresh) ∧ op.takes p kindClose [] (f kindClose) ∧
          (f kindClose).epoch ≠ (op.session p).epoch) ∧
      layoutFits kindRefresh [] ∧ layoutFits kindClose [] ∧ (Instr.refresh 0 (f kindRefresh)).wellFormed ∧
      (requestOf (.refresh 0 (f kindRefresh))).map Request.gate = some .gated ∧
      (requestOf (.closeSession 0 (f kindClose))).map Request.gate = some .keeping ∧
      (op.session 3).state = .closed ∧ (op.session 2).state = .lapsed ∧ (op.session 0).state = .idle := by
  decide +kernel

theorem witness_DiscardedFramesCounted :
    (Instr.frameError 0 [3, 0]).wellFormed ∧ op.flagsDue = false ∧
      (Instr.crcErrorFrame 0 kindRefresh (broken kindRefresh (fr kindRefresh []))).wellFormed := by decide +kernel

theorem witness_FetchesReturnResponses :
    let s := answered.fetch 0
    op.flagsDue = false ∧ (op.port 0).transport = .ready ∧ (commit.port 0).transport = .executing 9 ∧
      (answered.port 0).transport = .answered ⟨kindRefresh, 9, .ok, false, .empty⟩ false ∧ s.flagsDue = false ∧
      ((s.port 0).sending.map SentFrame.result) = some .ok ∧
      (((op.fetch 0).port 0).sending.map SentFrame.result) = some .noneHeld ∧
      (((commit.fetch 0).port 0).sending.map SentFrame.result) = some .pending := by decide +kernel

theorem witness_SelectionsSpellCommands :
    ∀ i ∈ [Instr.calUnknownStep 1 (fr kindCal []), .refresh 1 (fr kindRefresh []), .fetch 1, .frameError 1 [3],
        .crcErrorFrame 1 3 (broken 3 (fr 3 [])), .write 1 (fr kindWrite (List.replicate 40 0))],
      i.wellFormed ∧ i.crcIntact ∧ (selectionOf i).isSome := by decide +kernel

/-- A quiet state; each bank once OK and once LOST; a channel OFF and a driving one of either kind of evaluation. -/
theorem witness_UpdateTick :
    op.quiet ∧ op.resetAsserted = false ∧ op.timebase.hold = .released ∧ (op.loseField 0).quiet ∧
      (op.chan 3).config.range = .off ∧ (op.chan 1).config.range = .driving .vb10 ∧
      (op.chan 2).config.range = .driving .i20 := by decide +kernel

/-- The engine's step waits, or does not. -/
theorem witness_UpdateTickSteps_now :
    ({ op with stepDue := true } : State).resetAsserted = false ∧
      ({ op with stepDue := true } : State).timebase.hold = .released ∧ op.stepDue = false := by decide +kernel

/-- At its ticks; a lease or a wait of 1, which the count ends, neither, and a lease of 1 that was renewed. -/
theorem witness_TimerUnitCounts :
    let s := { op with timebase := { op.timebase with tickCount := 32 } }
    (s.timebase.multiple = .m32 ∧ 32 ≤ s.timebase.tickCount ∧ s.flagsDue = false ∧ op.timebase.tickCount < 32) ∧
      (renewedLease.renewed[0] ∧ (renewedLease.session 0).counter = 1) ∧
      (lapsing.sessionOpen 0 ∧ (lapsing.session 0).counter = 1 ∧ (lapsing.port 0).transport = .ready) ∧
      (∀ p, op.sessionOpen p → 1 < (op.session p).counter) ∧ (∀ k ∈ pend.claims, k.wait = some 3) ∧
      ∃ k ∈ ({ pend with claims := [{ waiting with wait := some 1 }] } : State).claims, k.wait = some 1 := by
  decide +kernel

/-- Port 0 lapses, port 1 does not; renewed since with a lease of 1, or with a lease of 10, port 0 does not either. -/
theorem witness_LapseEndsSessions :
    lapsing.leasesDue ∧ lapsing.flagsDue = false ∧ lapsing.sessionOpen 0 ∧ (lapsing.session 0).counter - 1 = 0 ∧
      (lapsing.port 0).transport = .ready ∧ (lapsing.chan 0).own = .owned 0 ∧ (lapsing.session 1).counter - 1 = 19 ∧
      (renewedLease.leasesDue ∧ renewedLease.flagsDue = false ∧ renewedLease.sessionOpen 0 ∧ renewedLease.renewed[0] ∧
        (renewedLease.session 0).counter = 1) ∧
      (∀ p, op.sessionOpen p → (op.session p).counter - 1 ≠ 0) ∧ op.leasesDue = false := by decide +kernel

/-- The state of `witness_LapseEndsSessions` is sound, for `op` is and the counter of 1 is within the lease. -/
theorem witness_LapseEndsSessions_sound : lapsing.Sound where
  owners := by
    refine ⟨?_, by simp [lapsing, op, State.reset]⟩
    show ∀ c p, (op.chan c).own = .owned p → lapsing.sessionOpen p = true
    decide +kernel
  off := witness_sound.off
  fields := witness_sound.fields
  drive c := by
    have e : lapsing.running = op.running := by
      funext p
      revert p; decide +kernel
    have := witness_sound.drive c
    show match (op.chan c).owner with | some p => _ | none => _
    rw [e]
    exact this
  named := witness_sound.named
  context := fun x h => nomatch h
  executing := witness_sound.executing
  leases := by
    show ∀ p, lapsing.sessionOpen p →
      1 ≤ (lapsing.session p).counter ∧ (lapsing.session p).counter ≤ (lapsing.session p).lease
    decide +kernel
  renewals := fun _ _ => .inr rfl

/-- So is that with the renewed lease. -/
theorem witness_LapseEndsSessions_renewed : renewedLease.Sound where
  owners := by
    refine ⟨?_, by simp [renewedLease, lapsing, op, State.reset]⟩
    show ∀ c p, (op.chan c).own = .owned p → renewedLease.sessionOpen p = true
    decide +kernel
  off := witness_sound.off
  fields := witness_sound.fields
  drive c := by
    have e : renewedLease.running = op.running := by
      funext p
      revert p; decide +kernel
    have := witness_sound.drive c
    show match (op.chan c).owner with | some p => _ | none => _
    rw [e]
    exact this
  named := witness_sound.named
  context := fun x h => nomatch h
  executing := witness_sound.executing
  leases := by
    show ∀ p, renewedLease.sessionOpen p →
      1 ≤ (renewedLease.session p).counter ∧ (renewedLease.session p).counter ≤ (renewedLease.session p).lease
    decide +kernel
  renewals := fun _ _ => .inr rfl

theorem witness_ClaimWaitsExpire :
    let s := { pend with claims := [{ waiting with wait := some 1 }], waitsDue := true }
    s.waitsDue ∧ s.flagsDue = false ∧
      (∃ k ∈ s.claims.map (fun k => { k with wait := k.wait.map fun n => n - 1 }), k.wait = some 0) ∧
      (∀ k ∈ pend.claims.map (fun k => { k with wait := k.wait.map fun n => n - 1 }), k.wait ≠ some 0) ∧
      pend.waitsDue = false := by decide +kernel

theorem witness_HandoverTimerExpires :
    let s := op.modChan 1 fun r => { r with drive := .holding, held := some 100, timer := some 0 }
    (s.chan 1).drive = .holding ∧ (s.chan 1).timer = some 0 ∧ s.flagsDue = false ∧ (s.chan 1).held = some 100 ∧
      (∀ e, e < 1 → ¬((s.chan e).drive = .holding ∧ (s.chan e).timer = some 0)) ∧ (s.chan 1).target.isSome ∧
      (s.chan 1).config.handover = .matching ∧ ¬((op.chan 1).drive = .holding ∧ (op.chan 1).timer = some 0) := by
  decide +kernel

theorem witness_FieldEvents :
    let low := op.modBank 0 fun _ => ⟨.ok, 2⟩
    let high := (op.loseField 0).modBank 0 fun _ => ⟨.lost, 8⟩
    let none := fun s : State => ∀ c, (s.chan c).openLoadCount < 4 ∧ (s.chan c).deviationCount < 3
    ((low.bank 0).field = .ok ∧ 2 ≤ (low.bank 0).count ∧ none low) ∧
      ((high.bank 0).field = .lost ∧ 8 ≤ (high.bank 0).count ∧ none high ∧ (high.chan 0).own = .owned 0 ∧
        (high.session 0).state ≠ .run ∧ (high.chan 1).own = .owned 1 ∧ (high.session 1).state = .run ∧
        (high.chan 2).owner = .none ∧ (high.chan 2).forced = some ⟨.safe, .none⟩ ∧ (high.chan 3).forced = .none) ∧
      (op.bank 0).count < 2 := by decide +kernel

theorem witness_FieldLossTakesBankOff_context :
    bankOf (context .low).channel = 0 ∧ (calib .low).cal = some (context .low) ∧ (context .low).phase ≠ .committing ∧
      (context .committing).phase = .committing := by decide +kernel

theorem witness_FlagChangesReported :
    let s := op.modChan 1 fun r => { r with openLoadCount := 4 }
    let t := op.modChan 1 fun r => { r with openLoadCount := 3, deviationCount := 3 }
    (4 ≤ (s.chan 1).openLoadCount ∧ ∀ e, e < 1 → (s.chan e).openLoadCount < 4 ∧ (s.chan e).deviationCount < 3) ∧
      (3 ≤ (t.chan 1).deviationCount ∧ (t.chan 1).openLoadCount < 4 ∧
        ∀ e, e < 1 → (t.chan e).openLoadCount < 4 ∧ (t.chan e).deviationCount < 3) ∧
      (op.chan 1).openLoadCount < 4 ∧ (op.chan 1).deviationCount < 3 := by decide +kernel

/-- Both flag changes of channel 1 due, with everything else that can be due, and the state that has taken them. -/
theorem witness_FlagChangesReported_taken :
    let s :=
      { (op.modChan 1 fun r =>
            { r with openLoadCount := 4, deviationCount := 3, drive := .holding, timer := some 0 }).modBank 0
              fun _ => ⟨.ok, 2⟩ with
        stepDue := true, waitsDue := true, leasesDue := true, timebase := { op.timebase with tickCount := 32 } }
    let u := s.takeAllFlags
    u.chan 1 = { op.chan 1 with openLoad := true, deviation := true, drive := .holding, timer := some 0 } ∧ (∀ c, c ≠ 1 → u.chan c = s.chan c) ∧
      (u.queue 1 = [⟨.openLoad 1 true, 0⟩, ⟨.deviation 1 true, 0⟩] ∧ ∀ p, p ≠ 1 → u.queue p = s.queue p) ∧
      (u.sessions = s.sessions ∧ u.claims = s.claims ∧ u.banks = s.banks ∧ u.ports = s.ports) ∧
      ((s.bank 0).lossDue ∧ s.waitsDue ∧ s.leasesDue ∧ s.resetAsserted = false) ∧
      (s.unitDue ∧ (s.chan 1).timerDue ∧ s.stepDue ∧ s.ticking ∧ s.timebase.hold = .released) ∧ State.reset.starting ∧
      (Instr.frameError 1 [3]).wellFormed ∧ (Instr.crcErrorFrame 1 3 (broken 3 (fr 3 []))).wellFormed := by decide +kernel

/-- A request refused by its block. -/
theorem witness_RequestsStayInBounds :
    requestOf (.openSession 0 (fr kindOpen [1, 1])) = some ⟨0, kindOpen, [], fr kindOpen [1, 1], .exempt⟩ ∧ op.flagsDue = false ∧
      after (.openSession 0 (fr kindOpen [1, 1])) op (fun t => (t.port 0).transport) =
        some (.answered ⟨kindOpen, 9, .alreadyOpen, false, .empty⟩ false) ∧
      Result.alreadyOpen ∉ [Result.ok, .granted, .queued] := by decide +kernel

/-- A CONFIGURE that changes the record of channel 0. -/
theorem witness_ConfigurationChangesOnlyByConfigure :
    after (.configure 0 (fr kindConfigure (configurePayload 0 records[2]))) op
        (fun t => decide ((t.chan 0).config = (op.chan 0).config)) = some false ∧
      after (.reset true) op (fun t => decide ((t.chan 0).config = (op.chan 0).config)) = some false := by
  decide +kernel

end Sys2Proof.Tests
end

/-! # The channel table: CONFIGURE, READ, and what changes a configuration record -/

namespace Sys2Proof.Machine

/-! ## CONFIGURE: the record on the line, the checks, and the change of range -/

section Configure

variable {s : State} {p : Port} {c : Channel} {k : ChanConfig} {r : Chan} {b v : Bool}

/-- The limits of R3, range by range. -/
theorem range_admits_iff {g : Range} {v : Int} :
    g.admits v ↔
      match g with
      | .off => v = 0
      | .driving .v10 | .driving .i20 => 0 ≤ v ∧ v ≤ 10500
      | .driving .vb10 => -10500 ≤ v ∧ v ≤ 10500
      | .driving .i420 => -2500 ≤ v ∧ v ≤ 10500 := by
  simp only [Range.admits, Bool.and_eq_true, decide_eq_true_eq]
  cases g with
  | off =>
    simp only [Range.lower, Range.upper]
    omega
  | driving d => cases d <;> simp [Range.lower, Range.upper, DriveRange.lower]

theorem inBounds_iff :
    k.inBounds ↔
      1 ≤ k.matchWindow ∧ k.matchWindow ≤ 2000 ∧ k.slewLimit ≤ 10000 ∧ 1 ≤ k.rampStep ∧ k.rampStep ≤ 10000 ∧
        k.timeout ≤ 255 ∧ k.range.admits k.safe ∧ 50 ≤ k.deviationLimit ∧ k.deviationLimit ≤ 2000 := by
  simp [ChanConfig.inBounds, and_assoc]

/-- The checks of R11 that read the state pass: the owner, IDLE or range OFF, and no calibration of the channel. -/
theorem configureCheck_eq_none (own : (s.chan c).own = .owned p)
    (idle : (s.session p).state = .idle ∨ (s.chan c).config.range = .off) (free : s.calNames c = false) :
    s.configureCheck p c = none := by
  have quiet : (s.running p && (s.chan c).ranged) = false := by
    rcases idle with h | h <;> simp [State.running, Chan.ranged, h]
  simp [State.configureCheck, Chan.ownedBy, own, quiet, free]

/-- The request, once its record and its checks are accepted (R11, R12). -/
theorem configureRequest_accepted {a : ConfigureOperands} (ch : channelOf a.channel = some c)
    (ck : s.configureCheck p c = none) (rec : a.record = some k) :
    configureRequest p a s = (s.configure p c k, some ⟨.ok, false, .configured c⟩) := by
  simp [configureRequest, ch, ck, rec]

/-- A channel that cannot drive in its new range, or whose bank is LOST, is left cleared (R14). -/
theorem changeRange_undriven {run : Bool} (h : k.range = .off ∨ b = false) :
    r.changeRange k v run b = r.rangeCleared k v := by
  rw [Chan.changeRange, if_neg]
  rintro ⟨driving, ok⟩
  rcases h with h | h
  · exact driving h
  · simp [h] at ok

/-- What the idle action drives on a channel that a change of range has cleared: SAFE the record's safe value, ZERO 0, and
HOLD the applied value, which is 0 then (R14, R99). -/
def ChanConfig.idleValue (k : ChanConfig) : Int :=
  match k.idleAction with
  | .safe => k.safe
  | .hold | .zero => 0

/-- For a session in IDLE the channel is forced with the idle action of the new record (R14, R98). -/
theorem changeRange_idle (d : k.range ≠ .off) :
    r.changeRange k v false true =
      { r.rangeCleared k v with
        drive := .forced, applied := k.idleValue, forced := some ⟨k.idleAction, some k.idleValue⟩
        held := if k.idleAction = .hold then some k.idleValue else none } := by
  cases h : k.idleAction <;>
    simp [Chan.changeRange, Chan.enter, Chan.force, Chan.rangeCleared, Chan.actionValue, ChanConfig.idleValue, d, h]

/-- For a session in RUN the channel waits at 0 for its handover, with the timer of the new record (R14, R83, R84). -/
theorem changeRange_run (d : k.range ≠ .off) :
    r.changeRange k v true true =
      { r.rangeCleared k v with
        drive := .holding, held := some 0, timer := if k.timeout = 0 then none else some k.timeout } := by
  have drives : ¬((r.rangeCleared k v).config.range = .off ∨ true = false) := by simpa [Chan.rangeCleared] using d
  rw [Chan.changeRange, if_pos ⟨d, rfl⟩, Chan.enter, if_pos rfl, Chan.handover, if_neg drives]
  rfl

end Configure

/-- Settles O18. -/
theorem configureReplacesRecord : Obligations.ConfigureReplacesRecord := by
  intro p f s c k taken payload admitted w₁ w₂ slew r₁ r₂ timeout d₁ d₂ safe own idle free
  have within : k.range.admits k.safe := by
    rw [range_admits_iff]
    revert safe
    cases k.range with
    | off => exact id
    | driving d => cases d <;> exact id
  have bounds : k.inBounds := inBounds_iff.2 ⟨w₁, w₂, slew, r₁, r₂, timeout, within, d₁, d₂⟩
  obtain ⟨a, decoded, channel, record⟩ := configureOperands_configurePayload c bounds
  have accepted := configureRequest_accepted (s := s.newSelection p) (p := p) channel
    (configureCheck_eq_none (by simpa using own) (by simpa using idle) (by simpa using free)) record
  obtain ⟨next, answered, same⟩ := exec_executed (i := .configure p f) rfl taken (by simp [payload])
    (payload ▸ decoded) (gate_of_admits admitted _) accepted (sameBut_configure _ p c k) (by simp)
  have default : (s.newSelection p).defaultFlag c k.range =
      (match k.range with | .off => false | .driving d => decide ((s.cell c d).effect = ⟨0, 0⟩)) := by
    cases k.range <;> rfl
  refine ⟨_, next, ?_, ?_, ?_, ?_, ?_, answered, same.weaken (by simp)⟩
  · intro kept
    simp [chan_configure, kept]
  · intro other undriven
    simp only [chan_complete, chan_configure, chan_newSelection, if_true, if_neg other, default]
    exact changeRange_undriven (by simpa using undriven)
  · intro other driving ok idle
    have run : (s.newSelection p).running p = false := by simp [State.running, idle]
    simp only [chan_complete, chan_configure, chan_newSelection, if_true, if_neg other, default, run,
      bankOk_newSelection, ok]
    rw [changeRange_idle driving]
    rfl
  · intro other driving ok run
    have run : (s.newSelection p).running p = true := by simp [State.running, run]
    simp only [chan_complete, chan_configure, chan_newSelection, if_true, if_neg other, default, run,
      bankOk_newSelection, ok]
    rw [changeRange_run driving]
    rfl
  · intro e ne
    simp [chan_configure, Ne.symm ne]

/-! ## READ, and the repetitions that a saved copy answers -/

section Replay

variable {α : Type} {s : State} {p : Port} {kind : Byte} {f : Frame} {r : Reply}

/-- An answered request has its response in the saved copy (R169). -/
theorem Answered.saved {t : State} (h : Answered s t p kind f r) :
    (t.port p).saved = some ⟨f.seq, kind, r.toResponse kind f.seq⟩ := by
  rw [h.1]

theorem replayOf_saved {x : PortState} {seq : Byte} {w : Response} (h : x.saved = some ⟨seq, kind, w⟩) :
    x.replayOf kind seq = some w := by
  simp [PortState.replayOf, h]

/-- A response placed without execution, in the terms of the statements (R167, R168). -/
theorem placed_modPort (w : Response) (replay : Bool) :
    Placed s (s.modPort p fun x => { x with transport := .answered w replay, sending := none }) p w replay := by
  constructor
  · simp
  · intro q hq
    simp [Ne.symm hq]

/-- A command whose frames go through `receive` replays what it has answered, when its operands are read from every
payload of its layout (R168). -/
theorem repetitionsReplayed {i : Frame → Instr} {lead : List Byte} {g : GateClass} {refusal : Frame → Payload}
    {operands : List Byte → Option α} {run : α → State → State × Option Reply} {t : State}
    (x : ∀ e u, exec (i e) u = .next (u.receive p kind lead e g (refusal e) operands run))
    (fits : ∀ l, layoutFits kind (lead ++ l) → (operands l).isSome) (h : Answered s t p kind f r) :
    RepetitionsReplayed i t p kind lead f r := by
  intro e u ready started seq layout saved
  obtain ⟨a, ha⟩ := Option.isSome_iff_exists.1 (fits _ layout)
  have short : lead.length + e.payload.length ≤ 40 := by
    simp only [layoutFits, Bool.and_eq_true, decide_eq_true_eq, List.length_append] at layout
    exact layout.1
  have copy : (u.port p).replayOf kind e.seq = some (r.toResponse kind f.seq) := by
    rw [seq]
    exact replayOf_saved (saved.trans h.saved)
  refine ⟨_, x e u, ?_⟩
  rw [receive_replay ready started short ha copy]
  exact ⟨placed_modPort _ _, sameBut_modPort _⟩

end Replay

theorem readOperands_natByte {l : List Byte} (h : l.length ≤ 255) : readOperands (natByte l.length :: l) = some l := by
  simp [readOperands, toNat_natByte h]

/-- Every payload of READ's layout is read (R174). -/
theorem readOperands_of_layoutFits {l : List Byte} (h : layoutFits kindRead l) : (readOperands l).isSome := by
  cases l with
  | nil => exact absurd h (by decide)
  | cons n rest =>
    have length : rest.length = n.toNat := by
      simp [layoutFits, kindRead, kindClose, kindRefresh, kindStatus, kindMode, kindCancel, kindNotes, kindOpen,
        kindRelease, kindClaim, kindWrite, kindConfigure] at h
      omega
    simp [readOperands, length]

/-- The request on one to three channels (R17, R18). -/
theorem readRequest_named {l : List Channel} (h₁ : 1 ≤ l.length) (h₂ : l.length ≤ 3) (s : State) :
    readRequest (l.map channelByte) s = (s, some ⟨.ok, false, .channels (l.map s.statusRecord)⟩) := by
  rw [readRequest, namedChannels_bytes, if_neg (by rw [List.length_map]; omega)]

/-- The status record in the fields of R17. -/
theorem statusRecord_eq (s : State) (c : Channel) :
    s.statusRecord c =
      { channel := c, range := (s.chan c).config.range, own := (s.chan c).own, drive := (s.chan c).drive
        target := (s.chan c).target, applied := (s.chan c).applied, readback := (s.chan c).readback
        fieldOk := decide ((s.bank (bankOf c)).field = .ok), openLoad := (s.chan c).openLoad
        deviation := (s.chan c).deviation, calDefault := (s.chan c).calDefault
        reservedByHead := (s.claims.head?.map fun k => inSet k.set c).getD false } := by
  have head : s.reservedByHead c = (s.claims.head?.map fun k => inSet k.set c).getD false := by
    unfold State.reservedByHead
    cases s.claims <;> rfl
  simp only [State.statusRecord, head, State.bankOk]

@[simp] theorem statusRecord_newSelection (s : State) (p : Port) (c : Channel) :
    (s.newSelection p).statusRecord c = s.statusRecord c := rfl

/-- Settles O20. -/
theorem readReportsChannels : Obligations.ReadReportsChannels := by
  intro p f s l taken payload h₁ h₂ record reply
  have records : l.map (s.newSelection p).statusRecord = l.map record :=
    List.map_congr_left fun c _ => statusRecord_eq s c
  have decoded : readOperands f.payload = some (l.map channelByte) := by
    rw [payload]
    simpa using readOperands_natByte (l := l.map channelByte) (by simp; omega)
  have read : readRequest (l.map channelByte) (s.newSelection p) = (s.newSelection p, some reply) := by
    rw [readRequest_named h₁ h₂, records]
  obtain ⟨t, next, answered, same⟩ := onlyAnswers_of_receive (i := .read p f) rfl taken
    (by simp [payload]; omega) decoded rfl read
  exact ⟨t, next, answered, same,
    repetitionsReplayed (fun e u => rfl) (fun _ => readOperands_of_layoutFits) answered⟩

end Sys2Proof.Machine

/-! # What changes a configuration record (R6) -/

namespace Sys2Proof.Machine

/-- Every channel has the same configuration record in both states. -/
def ConfigKept (s t : State) : Prop := ∀ c, (t.chan c).config = (s.chan c).config

namespace ConfigKept

variable {s t u : State}

theorem refl (s : State) : ConfigKept s s := fun _ => rfl

theorem trans (h : ConfigKept s t) (k : ConfigKept t u) : ConfigKept s u := fun c => (k c).trans (h c)

theorem of_sameBut {l : List Part} (h : SameBut l s t) (n : Part.chans ∉ l) : ConfigKept s t :=
  fun c => congrArg Chan.config (h.chan n c)

theorem of_chans (h : t.chans = s.chans) : ConfigKept s t := fun c => by simp only [State.chan, h]

theorem of_ite {P : Prop} [Decidable P] (h : ConfigKept s t) (k : ConfigKept s u) :
    ConfigKept s (if P then t else u) := by
  split
  · exact h
  · exact k

end ConfigKept

/-! ## One channel: no event of the monitor or the engine writes its configuration record -/

section Channel

variable (r : Chan)

@[simp] theorem config_sample (high : Bool) (loop : Int) : (r.sample high loop).config = r.config := by
  unfold Chan.sample
  split <;> rfl

@[simp] theorem config_flagsTaken (n : Nat) (c : Channel) : (r.flagsTaken n c).config = r.config := by
  have load : (if r.openLoadDue && decide (openLoadPlace c ≤ n) then r.flipOpenLoad else r).config = r.config := by
    split <;> rfl
  have deviates : ∀ x : Chan,
      (if x.deviationDue && decide (deviationPlace c ≤ n) then x.flipDeviation else x).config = x.config := by
    intro x
    split <;> rfl
  exact (deviates _).trans load

@[simp] theorem config_ramp (t : Int) : (r.ramp t).config = r.config := by
  unfold Chan.ramp
  split <;> rfl

@[simp] theorem config_tick (v : Option Int) : (r.tick v).config = r.config := by
  unfold Chan.tick
  split
  case h_4 =>
    split
    · rfl
    · split <;> rfl
    · exact config_ramp _ _
  case h_5 => exact config_ramp _ _
  case h_7 => split <;> rfl
  all_goals rfl

@[simp] theorem config_restore (run : Bool) : (r.restore run).config = r.config := by
  unfold Chan.restore
  split
  · simp
  · split <;> simp

@[simp] theorem config_countTimer : r.countTimer.config = r.config := by
  unfold Chan.countTimer
  split <;> rfl

@[simp] theorem config_expire : r.expire.config = r.config := by
  unfold Chan.expire
  split <;> rfl

end Channel

/-! ## The operations of the blocks -/

section Operations

variable (s : State) (p : Port)

theorem configKept_mapChans {f : Channel → Chan → Chan} (h : ∀ c r, (f c r).config = r.config) :
    ConfigKept s (s.mapChans f) := fun c => by rw [chan_mapChans, h]

theorem configKept_modChan (e : Channel) {f : Chan → Chan} (h : ∀ r, (f r).config = r.config) :
    ConfigKept s (s.modChan e f) := by
  intro c
  rw [chan_modChan]
  split
  · next same => rw [h, same]
  · rfl

theorem configKept_notifyAll (l : List (Port × NoteBody)) : ConfigKept s (s.notifyAll l) := fun c => by
  rw [chan_notifyAll]

theorem configKept_complete (kind seq : Byte) (r : Reply) : ConfigKept s (s.complete p kind seq r) := .of_chans rfl

theorem configKept_modPort (f : PortState → PortState) : ConfigKept s (s.modPort p f) := .of_chans rfl

theorem configKept_loadStore : ConfigKept s s.loadStore := .of_chans rfl

theorem configKept_grant (set : ChanSet) : ConfigKept s (s.grant p set) :=
  configKept_mapChans s fun c r => by split <;> simp

theorem configKept_grantPass : ConfigKept s s.grantPass := by
  intro c
  rcases chan_grantPass_cases s c with ⟨k, -, -, granted, -⟩ | ⟨o, kept, -⟩
  · rw [granted, config_grant]
  · rw [kept]

theorem configKept_revoke (set : ChanSet) : ConfigKept s (s.revoke p set) := by
  intro c
  rw [chan_revoke]
  split
  · exact config_release _ _ _
  · rfl

theorem configKept_withdraw (who : Port → Bool) (pick : ChanConfig → Action) : ConfigKept s (s.withdraw who pick) := by
  intro c
  rw [chan_withdraw]
  split
  · split
    · exact config_release _ _ _
    · rfl
  all_goals rfl

theorem configKept_setCal (x : CalContext) : ConfigKept s (s.setCal x) := by
  intro c
  rw [chan_setCal]
  split
  · next same => rw [same]
  · rfl

theorem configKept_closeCal (e : Channel) : ConfigKept s (s.closeCal e) := by
  intro c
  rw [chan_closeCal]
  split
  · next same => rw [config_force, same]
  · rfl

theorem configKept_beginCal (x : CalContext) : ConfigKept s (s.beginCal x) := by
  intro c
  rw [chan_beginCal]
  split
  · next same => rw [same]
  · rfl

theorem configKept_storeTargets (l : List (Channel × Int)) : ConfigKept s (s.storeTargets l) := by
  intro c
  rw [chan_storeTargets]
  split <;> rfl

theorem configKept_goRun : ConfigKept s (s.goRun p) := by
  intro c
  rw [chan_goRun]
  split
  · exact config_handover _ _
  · rfl

theorem configKept_goIdle : ConfigKept s (s.goIdle p) := by
  intro c
  rw [chan_goIdle]
  split
  · exact config_force _ _ _
  · rfl

end Operations

/-! ## The paced events -/

section Events

variable (s : State)

theorem configKept_monitor (field : Vector Bool 4) (loop : Vector Int 16) : ConfigKept s (s.monitor field loop) :=
  fun c => by rw [chan_monitor, config_sample]

theorem configKept_takeFlags (n : Nat) : ConfigKept s (s.takeFlags n) := fun c => by
  rw [chan_takeFlags, config_flagsTaken]

theorem configKept_takeAllFlags : ConfigKept s s.takeAllFlags := fun c => by
  rw [chan_takeAllFlags, config_flagsTaken]

theorem configKept_stepChannels : ConfigKept s s.stepChannels := fun c => by rw [chan_stepChannels, config_tick]

theorem configKept_takeStep : ConfigKept s s.takeStep :=
  .of_ite ((configKept_takeAllFlags s).trans (configKept_stepChannels _)) (.refl s)

theorem configKept_loseField (b : Bank) : ConfigKept s (s.loseField b) := by
  intro c
  rw [chan_loseField]
  split <;> rfl

theorem configKept_restoreField (b : Bank) : ConfigKept s (s.restoreField b) := by
  intro c
  rw [chan_restoreField]
  split
  · exact config_restore _ _
  · rfl

theorem configKept_takeLoss (b : Bank) : ConfigKept s (s.takeLoss b) :=
  .of_ite ((configKept_takeAllFlags s).trans (configKept_loseField _ b)) (.refl s)

theorem configKept_takeRestore (b : Bank) : ConfigKept s (s.takeRestore b) :=
  .of_ite ((configKept_takeAllFlags s).trans (configKept_restoreField _ b)) (.refl s)

theorem configKept_takeFieldEvents : ConfigKept s s.takeFieldEvents := by
  unfold State.takeFieldEvents
  generalize allBanks = l
  induction l generalizing s with
  | nil => exact .refl s
  | cons b l ih => exact ((configKept_takeLoss s b).trans (configKept_takeRestore _ b)).trans (ih _)

theorem configKept_takeUnit : ConfigKept s s.takeUnit := by
  refine .of_ite ((configKept_takeAllFlags s).trans fun c => ?_) (.refl s)
  rw [(countUnit_spec _).1, config_countTimer]

theorem configKept_takeExpiries (n : Nat) : ConfigKept s (s.takeExpiries n) := by
  intro c
  rw [chan_takeExpiries]
  split
  · exact config_expire _
  · rfl

theorem configKept_expireClaims : ConfigKept s s.expireClaims := by
  refine .of_ite (.trans ?_ (configKept_grantPass _)) (.refl s)
  exact .of_chans (chans_notifyAll _ _)

theorem configKept_takeClaimExpiry : ConfigKept s s.takeClaimExpiry :=
  .of_ite
    ((configKept_takeAllFlags s).trans
      ((ConfigKept.of_sameBut (sameBut_countWaits _) (by simp)).trans (configKept_expireClaims _)))
    (.refl s)

theorem configKept_lapseSessions : ConfigKept s s.lapseSessions := by
  refine .of_ite ?_ (.refl s)
  refine .trans ?_ (.of_sameBut (noteLapse_foldl _ (List.Nodup.filter _ (by decide))).1 (by simp))
  refine .trans ?_ (configKept_grantPass _)
  refine (configKept_withdraw s (fun p => (s.session p).lapseDue) ChanConfig.lapseAction).trans ?_
  exact .of_chans rfl

theorem configKept_takeLapse : ConfigKept s s.takeLapse :=
  .of_ite
    ((configKept_takeAllFlags s).trans
      ((ConfigKept.of_sameBut (sameBut_countLeases _) (by simp)).trans (configKept_lapseSessions _)))
    (.refl s)

theorem configKept_takeDue : ConfigKept s s.takeDue :=
  (configKept_takeAllFlags s).trans <| (configKept_takeStep _).trans <| (configKept_takeFieldEvents _).trans <|
    (configKept_takeUnit _).trans <| (configKept_takeExpiries _ 15).trans <|
    (configKept_takeClaimExpiry _).trans (configKept_takeLapse _)

theorem configKept_settled : ConfigKept s s.settled := .of_ite (.refl s) (configKept_takeDue s)

theorem configKept_beginTick (field : Vector Bool 4) (loop : Vector Int 16) : ConfigKept s (s.beginTick field loop) :=
  (configKept_settled s).trans ((configKept_monitor _ field loop).trans (.of_chans rfl))

theorem configKept_updateTick (field : Vector Bool 4) (loop : Vector Int 16) (order : TickOrder) :
    ConfigKept s (s.updateTick field loop order) := by
  refine .of_ite ?_ (.refl s)
  have tick := configKept_beginTick s field loop
  cases order with
  | whole => exact tick.trans (configKept_settled _)
  | stepFirst => exact tick.trans (configKept_takeStep _)
  | stepLast => exact tick
  | stepNow => exact configKept_takeStep s

theorem configKept_setHold (h : HoldState) (b : NoteBody) : ConfigKept s (s.setHold h b) :=
  .of_chans (chans_notifyAll _ _)

theorem configKept_commitDone (x : CalContext) : ConfigKept s (s.commitDone x) := by
  refine .trans ?_ (configKept_complete _ _ _ _ _)
  refine .trans ?_ (configKept_closeCal _ _)
  refine .trans ?_ (configKept_modChan _ _ fun _ => rfl)
  exact .of_chans rfl

theorem configKept_commitFailed (x : CalContext) : ConfigKept s (s.commitFailed x) := by
  refine .of_ite (.of_chans rfl) (.trans ?_ (configKept_complete _ _ _ _ _))
  refine .trans ?_ (.of_chans (chans_notify _ _ _))
  refine .trans ?_ (configKept_closeCal _ _)
  exact .of_chans rfl

theorem configKept_completeCommit (verified : Bool) : ConfigKept s (s.completeCommit verified) := by
  unfold State.completeCommit
  split
  · exact .of_ite (configKept_commitDone s _) (configKept_commitFailed s _)
  · exact .refl s

end Events

/-! ## The blocks' requests -/

section Requests

variable (s : State) (p : Port)

theorem configKept_openRequest (a : Byte × Byte) : ConfigKept s (openRequest p a s).1 := by
  unfold openRequest
  split
  · exact .refl s
  · split
    · exact .refl s
    · exact .of_sameBut (sameBut_openAs s p _ _) (by simp)

theorem configKept_closeRequest (a : Unit) : ConfigKept s (closeRequest p a s).1 := by
  unfold closeRequest
  split
  · exact ((configKept_withdraw s _ _).trans (configKept_grantPass _)).trans
      (.of_sameBut (sameBut_clearSession _ p) (by simp))
  · exact .of_sameBut (sameBut_clearSession s p) (by simp)

theorem configKept_refreshLease : ConfigKept s (s.refreshLease p) := .of_sameBut (sameBut_refreshLease s p) (by simp)

theorem configKept_modeRequest (mode : Byte) : ConfigKept s (modeRequest p mode s).1 := by
  unfold modeRequest
  split
  · split
    · exact configKept_goIdle s p
    · exact .refl s
  · split
    · exact .refl s
    · split
      · exact .refl s
      · exact configKept_goRun s p
  · exact .refl s

theorem configKept_decideClaim (a : ClaimOperands) : ConfigKept s (s.decideClaim p a).1 := by
  unfold State.decideClaim
  dsimp only
  split
  · exact (configKept_grant s p _).trans (configKept_grantPass _)
  · split
    · exact ((configKept_revoke s p _).trans (configKept_grant _ p _)).trans (configKept_grantPass _)
    · split
      · split
        · exact .trans (.of_chans rfl) (configKept_grantPass _)
        · exact .refl s
      · exact .refl s

theorem configKept_claimRequest (a : ClaimOperands) : ConfigKept s (claimRequest p a s).1 := by
  unfold claimRequest
  split
  · exact .refl s
  · exact configKept_decideClaim s p a

theorem configKept_cancelRequest (tag : Byte) : ConfigKept s (cancelRequest p tag s).1 := by
  unfold cancelRequest
  split
  · exact .refl s
  · split
    · exact .trans (.of_chans rfl) (configKept_grantPass _)
    · exact .refl s

theorem configKept_freeSet (set : ChanSet) : ConfigKept s (s.freeSet set) :=
  configKept_mapChans s fun c r => by split <;> simp

theorem configKept_releaseRequest (set : ChanSet) : ConfigKept s (releaseRequest p set s).1 := by
  unfold releaseRequest
  split
  · exact .refl s
  · split
    · exact .refl s
    · split
      · exact .refl s
      · exact (configKept_freeSet s set).trans (configKept_grantPass _)

theorem configKept_writeRequest (a : List (Byte × Int)) : ConfigKept s (writeRequest p a s).1 := by
  unfold writeRequest
  split
  · exact .refl s
  · split
    · exact .refl s
    · split
      · exact .refl s
      · exact (configKept_storeTargets s _).trans (configKept_refreshLease _ p)

theorem configKept_readRequest (a : List Byte) : ConfigKept s (readRequest a s).1 := by
  unfold readRequest
  split
  · exact .refl s
  · split <;> exact .refl s

theorem configKept_notesRequest (b : Byte) : ConfigKept s (notesRequest p b s).1 := by
  unfold notesRequest
  split
  · exact .refl s
  · exact .of_chans rfl

theorem configKept_calBeginRequest (b : Byte) : ConfigKept s (calBeginRequest p b s).1 := by
  unfold calBeginRequest
  split
  · exact .refl s
  · exact configKept_beginCal s _

theorem configKept_calDriveRequest (b : Byte) : ConfigKept s (calDriveRequest p b s).1 := by
  unfold calDriveRequest
  split
  · exact .refl s
  · exact .refl s
  · split
    · exact configKept_setCal s _
    · exact .refl s

theorem configKept_calMeasureRequest (a : Byte × Int) : ConfigKept s (calMeasureRequest p a s).1 := by
  unfold calMeasureRequest
  split
  · exact .refl s
  · exact .refl s
  · split
    · exact .refl s
    · split <;> exact .of_chans rfl

theorem configKept_compute (x : CalContext) (mL mH : Int) : ConfigKept s (s.compute x mL mH).1 := by
  unfold State.compute
  split
  · exact .refl s
  · dsimp only
    split
    · exact configKept_setCal s _
    · exact .refl s

theorem configKept_calComputeRequest (a : Unit) : ConfigKept s (calComputeRequest p a s).1 := by
  unfold calComputeRequest
  split
  · exact .refl s
  · split
    · exact configKept_compute s _ _ _
    · exact .refl s

theorem configKept_calDefaultRequest (a : Unit) : ConfigKept s (calDefaultRequest p a s).1 := by
  unfold calDefaultRequest
  split
  · exact .refl s
  · split
    · exact configKept_setCal s _
    · exact .refl s

theorem configKept_calCommitRequest (a : Unit) : ConfigKept s (calCommitRequest p a s).1 := by
  unfold calCommitRequest
  split
  · exact .refl s
  · split <;> exact .of_chans rfl

theorem configKept_calAbortRequest (a : Unit) : ConfigKept s (calAbortRequest p a s).1 := by
  unfold calAbortRequest
  split
  · exact .refl s
  · split
    · exact configKept_closeCal s _
    · exact .refl s

theorem configKept_timebaseWriteRequest (a : Byte × Byte) : ConfigKept s (timebaseWriteRequest a s).1 := by
  unfold timebaseWriteRequest
  split
  · split
    · exact .refl s
    · exact (configKept_settled s).trans (.of_chans rfl)
  · exact .refl s

/-- CONFIGURE refuses and changes nothing, or replaces the record of the channel that it answers OK for (R11, R12). -/
theorem configureRequest_cases (a : ConfigureOperands) :
    (configureRequest p a s).1 = s ∨
      ∃ c k, configureRequest p a s = (s.configure p c k, some ⟨.ok, false, .configured c⟩) := by
  unfold configureRequest
  split
  · exact .inl rfl
  · split
    · exact .inl rfl
    · split
      · exact .inl rfl
      · exact .inr ⟨_, _, rfl⟩

/-- A CONFIGURE after which the record of a channel differs has been accepted for that channel. -/
theorem configureRequest_of_changed {a : ConfigureOperands} {c : Channel}
    (h : ((configureRequest p a s).1.chan c).config ≠ (s.chan c).config) :
    (configureRequest p a s).2 = some ⟨.ok, false, .configured c⟩ := by
  rcases configureRequest_cases s p a with refused | ⟨e, k, accepted⟩
  · exact absurd (by rw [refused]) h
  · rw [accepted, chan_configure] at h
    rw [accepted]
    split at h
    · next same => rw [same]
    · exact absurd rfl h

end Requests

/-! ## A frame: what it can do to the channels, and what it answers -/

section Frames

variable {α : Type} {s : State} {p : Port} {kind : Byte} {lead : List Byte} {f : Frame} {g : GateClass}
  {refusal : Payload} {operands : List Byte → Option α} {run : α → State → State × Option Reply}

/-- `t` is what the port makes of a frame on `s`: the channels are left alone, or they are as the block's request leaves
them, and its reply, if it gives one, waits in the port's buffer (R165 to R169). -/
def LeftByFrame (s t : State) (p : Port) (kind : Byte) (f : Frame) (run : α → State → State × Option Reply) : Prop :=
  t.chans = s.chans ∨
    ∃ a, t.chans = (run a s).1.chans ∧
      ∀ r, (run a s).2 = some r → (t.port p).transport = .answered (r.toResponse kind f.seq) false

theorem execute_leftByFrame (a : α) : LeftByFrame s (s.execute p kind f g refusal (run a)) p kind f run := by
  unfold State.execute
  split
  · exact .inl rfl
  · refine .inr ⟨a, ?_⟩
    split
    · next t r e =>
      rw [e]
      refine ⟨rfl, ?_⟩
      rintro _ ⟨⟩
      simp [port_complete]
    · next t e =>
      rw [e]
      exact ⟨rfl, by simp⟩

theorem takeFrame_leftByFrame {length : Nat} {o : Option α} :
    LeftByFrame s (s.takeFrame p kind f length g refusal o run) p kind f run := by
  unfold State.takeFrame
  split
  · exact .inl rfl
  · split
    · exact .inl rfl
    · split
      · exact .inl rfl
      · split
        · exact .inl rfl
        · exact execute_leftByFrame _

theorem receive_leftByFrame :
    LeftByFrame (s.takeAllFlags.newSelection p) (s.receive p kind lead f g refusal operands run) p kind f run := by
  unfold State.receive
  dsimp only
  split
  · split
    · exact .inl rfl
    · exact .inl rfl
    · exact takeFrame_leftByFrame
  · exact .inl rfl

theorem configKept_newSelection : ConfigKept s (s.takeAllFlags.newSelection p) :=
  (configKept_takeAllFlags s).trans (configKept_modPort _ p _)

theorem configKept_discarded (k : PortState → PortState) :
    ConfigKept s ((s.takeAllFlags.newSelection p).modPort p k) :=
  configKept_newSelection.trans (configKept_modPort _ p k)

/-- A request whose block keeps every configuration record keeps them. -/
theorem configKept_receive (h : ∀ u a, ConfigKept u (run a u).1) :
    ConfigKept s (s.receive p kind lead f g refusal operands run) := by
  refine (configKept_newSelection (p := p)).trans ?_
  rcases receive_leftByFrame with kept | ⟨a, e, -⟩
  · exact .of_chans kept
  · exact (h _ a).trans (.of_chans e)

/-- A CONFIGURE frame after which the record of a channel differs is answered OK for that channel. -/
theorem configure_answered_of_changed {operands : List Byte → Option ConfigureOperands} {t : State} {c : Channel}
    (h : s.receive p kindConfigure lead f g refusal operands (configureRequest p) = t)
    (changed : (t.chan c).config ≠ (s.chan c).config) :
    (t.port p).transport = .answered ⟨kindConfigure, f.seq, .ok, false, .configured c⟩ false := by
  have left : LeftByFrame (s.takeAllFlags.newSelection p) t p kindConfigure f (configureRequest p) :=
    h ▸ receive_leftByFrame
  rw [← configKept_newSelection (s := s) (p := p) c] at changed
  rcases left with kept | ⟨a, e, answered⟩
  · exact absurd (ConfigKept.of_chans kept c) changed
  · rw [ConfigKept.of_chans e c] at changed
    exact answered _ (configureRequest_of_changed _ p changed)

end Frames

/-! ## Every command -/

section Commands

variable {s t u v : State}

theorem configKept_of_next (h : (.next u : Host.Outcome State Fault Refusal) = .next t) (k : ConfigKept s u) :
    ConfigKept s t := by
  cases h
  exact k

/-- A command whose effect depends on whether its event is due. -/
theorem configKept_of_ite {P : Prop} [Decidable P]
    (h : (if P then .next u else .next v : Host.Outcome State Fault Refusal) = .next t) (k : ConfigKept s u)
    (l : ConfigKept s v) : ConfigKept s t := by
  split at h
  · exact configKept_of_next h k
  · exact configKept_of_next h l

/-- Every command but RESET and CONFIGURE keeps every configuration record (R6). -/
theorem configKept_exec {i : Instr} (h : exec i s = .next t) (reset : ∀ done, i ≠ .reset done)
    (configure : ∀ p f, i ≠ .configure p f) : ConfigKept s t := by
  have flags := configKept_takeAllFlags s
  cases i with
  | reset done => exact absurd rfl (reset done)
  | configure p f => exact absurd rfl (configure p f)
  | resetEnd straps mhold => exact configKept_of_ite h (.of_chans rfl) (.refl s)
  | startUpLoadCompletion => exact configKept_of_ite h (flags.trans (configKept_loadStore _)) (.refl s)
  | openSession p f => exact configKept_of_next h (configKept_receive fun u => configKept_openRequest u p)
  | closeSession p f => exact configKept_of_next h (configKept_receive fun u => configKept_closeRequest u p)
  | refresh p f => exact configKept_of_next h (configKept_receive fun u _ => configKept_refreshLease u p)
  | mode p f => exact configKept_of_next h (configKept_receive fun u => configKept_modeRequest u p)
  | claim p f => exact configKept_of_next h (configKept_receive fun u => configKept_claimRequest u p)
  | cancel p f => exact configKept_of_next h (configKept_receive fun u => configKept_cancelRequest u p)
  | release p f => exact configKept_of_next h (configKept_receive fun u => configKept_releaseRequest u p)
  | write p f => exact configKept_of_next h (configKept_receive fun u => configKept_writeRequest u p)
  | read p f => exact configKept_of_next h (configKept_receive configKept_readRequest)
  | notes p f => exact configKept_of_next h (configKept_receive fun u => configKept_notesRequest u p)
  | calBegin p f => exact configKept_of_next h (configKept_receive fun u => configKept_calBeginRequest u p)
  | calDrive p f => exact configKept_of_next h (configKept_receive fun u => configKept_calDriveRequest u p)
  | calMeasure p f => exact configKept_of_next h (configKept_receive fun u => configKept_calMeasureRequest u p)
  | calCompute p f => exact configKept_of_next h (configKept_receive fun u => configKept_calComputeRequest u p)
  | calDefault p f => exact configKept_of_next h (configKept_receive fun u => configKept_calDefaultRequest u p)
  | calCommit p f => exact configKept_of_next h (configKept_receive fun u => configKept_calCommitRequest u p)
  | calAbort p f => exact configKept_of_next h (configKept_receive fun u => configKept_calAbortRequest u p)
  | timebaseWrite p f => exact configKept_of_next h (configKept_receive configKept_timebaseWriteRequest)
  | calUnknownStep | timebaseRead | timebaseUnknownVariant | status | unknownKindFrame =>
    exact configKept_of_next h (configKept_receive fun u _ => .refl u)
  | frameError p received => exact configKept_of_ite h (configKept_discarded _) (.refl s)
  | fetch p | responseClockedOut p => exact configKept_of_next h (flags.trans (configKept_modPort _ p _))
  | updateTick field loop order => exact configKept_of_next h (configKept_updateTick s field loop order)
  | timerUnitEvent => exact configKept_of_next h (configKept_takeUnit s)
  | lapse => exact configKept_of_next h (configKept_takeLapse s)
  | claimWaitExpiry => exact configKept_of_next h (configKept_takeClaimExpiry s)
  | handoverTimerExpiry c => exact configKept_of_ite h (flags.trans (configKept_takeExpiries _ _)) (.refl s)
  | fieldLoss b => exact configKept_of_next h (configKept_takeLoss s b)
  | fieldRestore b => exact configKept_of_next h (configKept_takeRestore s b)
  | openLoadFlagChange | deviationFlagChange => exact configKept_of_ite h (configKept_takeFlags s _) (.refl s)
  | holdAssertion | holdRelease =>
    exact configKept_of_ite h ((configKept_settled s).trans (configKept_setHold _ _ _)) (.refl s)
  | commitCompletion verified => exact configKept_of_next h (flags.trans (configKept_completeCommit _ verified))
  | crcErrorFrame p kind f => exact configKept_of_ite h (.refl s) (configKept_discarded _)

end Commands

/-- Settles O55, from what each command does to the channels. -/
theorem configurationChangesOnlyByConfigure : Obligations.ConfigurationChangesOnlyByConfigure := by
  intro i s t c next changed
  by_cases reset : ∃ done, i = .reset done
  · exact .inl reset
  by_cases configure : ∃ p f, i = .configure p f
  · obtain ⟨p, f, rfl⟩ := configure
    exact .inr ⟨p, f, rfl, configure_answered_of_changed (Host.Outcome.next.inj next) changed⟩
  · exact absurd
      (configKept_exec next (fun d e => reset ⟨d, e⟩) (fun p f e => configure ⟨p, f, e⟩) c) changed

end Sys2Proof.Machine

/-! # TIMEBASE READ (R158) -/

namespace Sys2Proof.Machine

theorem locked_iff {s : State} : s.locked ↔ ∃ q, (s.session q).state = .idle ∨ (s.session q).state = .run := by
  simp [State.locked, mem_allPorts, sessionOpen_iff]

@[simp] theorem locked_newSelection (s : State) (p : Port) : (s.newSelection p).locked = s.locked := rfl

/-- The layout of TIMEBASE READ leaves nothing after the variant (R174). -/
theorem eq_nil_of_layoutFits_timebaseRead {l : List Byte} (h : layoutFits kindTimebase ([variantRead] ++ l)) :
    l = [] := by
  have row : l.length < 40 ∧ l = [] := by
    simpa [layoutFits, kindTimebase, variantRead, kindClose, kindRefresh, kindStatus, kindMode, kindCancel, kindNotes,
      kindOpen, kindRelease, kindClaim, kindWrite, kindConfigure, kindRead, kindCal] using h
  exact row.2

/-- Settles O33: the port answers, and the block reads the timebase and the sessions as they are. -/
theorem timebaseReadReports : Obligations.TimebaseReadReports := by
  intro p f s taken payload reply
  have lock : (s.newSelection p).locked = decide (∃ q, (s.session q).state = .idle ∨ (s.session q).state = .run) := by
    rw [locked_newSelection, Bool.eq_iff_iff, locked_iff, decide_eq_true_iff]
  have read : timebaseReadRequest () (s.newSelection p) = (s.newSelection p, some reply) := by
    rw [timebaseReadRequest, lock]
    rfl
  have decoded : noOperands f.payload = some () := by rw [payload]; rfl
  obtain ⟨t, next, answered, same⟩ := onlyAnswers_of_receive (i := .timebaseRead p f) rfl taken
    (by simp [payload]) decoded rfl read
  refine ⟨t, next, answered, same, repetitionsReplayed (fun e u => rfl) (fun l fits => ?_) answered⟩
  rw [eq_nil_of_layoutFits_timebaseRead fits]
  rfl

end Sys2Proof.Machine

/-! # Overruns (R166) -/

namespace Sys2Proof.Machine

/-- The error counts in the terms of the statements (R164). -/
theorem bumpCount_eq_ite (n : Nat) : bumpCount n = if n < 255 then n + 1 else 255 := by
  unfold bumpCount Config.countLimit
  split <;> omega

theorem port_modPort_of_ne {s : State} {p q : Port} {f : PortState → PortState} (h : q ≠ p) :
    (s.modPort p f).port q = s.port q := by
  rw [port_modPort, if_neg h.symm]

/-- Settles O39: every request row goes through `receive`, which counts the frame as an overrun on its port alone. -/
theorem overrunsDiscarded : Obligations.OverrunsDiscarded := by
  intro i r s request _ flags crc busy
  obtain ⟨α, refusal, operands, run, next⟩ := exec_request request
  refine ⟨_, by rw [next, receive_overrun flags crc busy], ?_, fun q other => port_modPort_of_ne other,
    sameBut_modPort _⟩
  simp [bumpCount_eq_ite]

end Sys2Proof.Machine

/-! # What a command can do to the state: the moves of the blocks -/

namespace Sys2Proof.Machine

/-! ## The moves -/

/-- The claims of port `p`'s session hold no channel of the set (R31, check 2). -/
def State.ClearOfClaims (s : State) (p : Port) (set : ChanSet) : Prop :=
  ∀ k ∈ s.claims, s.ownsClaim p k → ∀ c, inSet set c → inSet k.set c = false

/-- A field loss before its records are handed over (R115, R116). -/
def State.fieldLost (s : State) (b : Bank) : State :=
  { (s.modBank b fun _ => ⟨.lost, 0⟩).mapChans fun c r => if bankOf c = b then r.fieldLoss else r with
    cal := if (s.calAborted b).isSome then none else s.cal }

/-- A field restore before its records are handed over (R118). -/
def State.fieldRestored (s : State) (b : Bank) : State :=
  (s.modBank b fun _ => ⟨.ok, 0⟩).mapChans fun c r => if bankOf c = b then r.restore (s.ownerRunning r) else r

section Fields

variable (s : State) (b : Bank)

theorem loseField_eq :
    s.loseField b = (s.fieldLost b).notifyAll
      ((s.bankOwners b).map (fun p => (p, NoteBody.fieldLost b)) ++
        (s.calAborted b).toList.map fun x => (x.port, NoteBody.calAborted x.channel)) := rfl

theorem restoreField_eq :
    s.restoreField b = (s.fieldRestored b).notifyAll
      ((s.bankOwners b).map fun p => (p, NoteBody.fieldRestored b)) := rfl

theorem chan_fieldLost (c : Channel) :
    (s.fieldLost b).chan c = if bankOf c = b then (s.chan c).fieldLoss else s.chan c := by
  rw [← chan_loseField, loseField_eq, chan_notifyAll]

theorem bank_fieldLost (e : Bank) : (s.fieldLost b).bank e = if b = e then ⟨.lost, 0⟩ else s.bank e := by
  rw [← bank_loseField, loseField_eq, bank_notifyAll]

theorem cal_fieldLost : (s.fieldLost b).cal = if (s.calAborted b).isSome then none else s.cal := rfl

theorem sameBut_fieldLost : SameBut [.chans, .banks, .cal] s (s.fieldLost b) := by
  intro y hy
  cases y <;> simp [Part.Same, State.fieldLost] at hy ⊢

theorem chan_fieldRestored (c : Channel) :
    (s.fieldRestored b).chan c = if bankOf c = b then (s.chan c).restore (s.ownerRunning (s.chan c)) else s.chan c := by
  rw [← chan_restoreField, restoreField_eq, chan_notifyAll]

theorem bank_fieldRestored (e : Bank) : (s.fieldRestored b).bank e = if b = e then ⟨.ok, 0⟩ else s.bank e := by
  rw [← bank_restoreField, restoreField_eq, bank_notifyAll]

theorem sameBut_fieldRestored : SameBut [.chans, .banks] s (s.fieldRestored b) := by
  intro y hy
  cases y <;> simp [Part.Same, State.fieldRestored] at hy ⊢

end Fields

/-- One thing that a block does to the state, under the checks that its command has made. Every command but RESET is a
chain of moves, up to the parameters that TIMEBASE WRITE sets (`exec_moves`), so what every move keeps, every such
command keeps. -/
inductive Move (s : State) : State → Prop
  /-- A port changes without starting or ending a commit (R165 to R170). -/
  | port (p : Port) (k : PortState → PortState) (kept : (k (s.port p)).isExecuting = (s.port p).isExecuting) :
      Move s (s.modPort p k)
  /-- Parts change that no channel, claim, session, queue or port reads, and the tick count may rise (R154 to R156,
  R162). -/
  | inert {t : State}
      (same : t = { s with
        ceilings := t.ceilings, store := t.store, timebase := t.timebase, starting := t.starting
        resetAsserted := t.resetAsserted, stepDue := t.stepDue })
      (timebase : t.timebase = { s.timebase with tickCount := t.timebase.tickCount, hold := t.timebase.hold })
      (later : s.timebase.tickCount ≤ t.timebase.tickCount) : Move s t
  /-- A record is handed to a queue (R128). -/
  | notify (p : Port) (b : NoteBody) : Move s (s.notify p b)
  /-- The monitor samples (R113). -/
  | monitor (field : Vector Bool 4) (loop : Vector Int 16) : Move s (s.monitor field loop)
  /-- The monitor's flag changes (R122, R124). -/
  | flags (n : Nat) : Move s (s.mapChans fun c r => r.flagsTaken n c)
  /-- The engine steps every channel (R74). -/
  | engine : Move s (s.mapChans fun c r => r.tick (s.calValue c))
  /-- A bank loses its field (R115, R116). -/
  | loseField (b : Bank) : Move s (s.fieldLost b)
  /-- A bank's field returns (R118). -/
  | restoreField (b : Bank) (lost : (s.bank b).field = .lost) : Move s (s.fieldRestored b)
  /-- A timer-unit event (R157). -/
  | countUnit : Move s s.countUnit
  /-- Handover timers expire (R85, R86). -/
  | expire (n : Nat) : Move s (s.mapChans fun c r => if r.timerDue && decide (c.val ≤ n) then r.expire else r)
  /-- The claim waits count down (R45). -/
  | countWaits : Move s s.countWaits
  /-- Claims leave the list and a grant pass follows (R40, R46). -/
  | dropClaims (keep : Claim → Bool) (l : List (Port × NoteBody)) :
      Move s (State.notifyAll { s with claims := s.claims.filter keep } l).grantPass
  /-- The leases count down and sessions lapse (R67, R68). -/
  | lapse : Move s s.countLeases.lapseSessions
  /-- OPEN (R59). -/
  | openAs (p : Port) (priority lease : Nat) (closed : s.sessionOpen p = false) (leased : lease ≠ 0) :
      Move s (s.openAs p priority lease)
  /-- CLOSE of an open session (R71). -/
  | close (p : Port) (opened : s.sessionOpen p) (free : (s.port p).isExecuting = false) :
      Move s (((s.withdraw (fun q => q = p) ChanConfig.releaseAction).grantPass).clearSession p)
  /-- CLOSE of a LAPSED session (R72). -/
  | clear (p : Port) (lapsed : s.sessionOpen p = false) : Move s (s.clearSession p)
  /-- The lease is renewed (R66). -/
  | refresh (p : Port) (opened : s.sessionOpen p) : Move s (s.refreshLease p)
  /-- MODE RUN (R63). -/
  | goRun (p : Port) (idle : (s.session p).state = .idle) (free : s.holdsCal p = false) : Move s (s.goRun p)
  /-- MODE IDLE (R64). -/
  | goIdle (p : Port) (run : (s.session p).state = .run) : Move s (s.goIdle p)
  /-- CLAIM granted, by preemption of the channels that have an owner (R32 to R34). -/
  | take (p : Port) (set : ChanSet) (opened : s.sessionOpen p) (clear : s.ClearOfClaims p set)
      (uncalibrated : ∀ c, inSet set c → (s.chan c).owner.isSome → s.calNames c = false) :
      Move s ((s.revoke p set).grant p set).grantPass
  /-- CLAIM queued (R35). -/
  | queueClaim (p : Port) (a : ClaimOperands) (opened : s.sessionOpen p) (passes : s.claimCheck p a = none)
      (room : s.claims.length < 8) (share : (s.claimsOf p).length < 4) : Move s (s.queueClaim p a)
  /-- RELEASE (R43). -/
  | release (p : Port) (set : ChanSet) (owned : ∀ c, inSet set c → (s.chan c).own = .owned p)
      (uncalibrated : ∀ c, inSet set c → s.calNames c = false) : Move s (s.freeSet set).grantPass
  /-- WRITE (R92). -/
  | storeTargets (l : List (Channel × Int)) : Move s (s.storeTargets l)
  /-- CONFIGURE (R12). -/
  | configure (p : Port) (c : Channel) (k : ChanConfig) (passes : s.configureCheck p c = none) (bounds : k.inBounds) :
      Move s (s.configure p c k)
  /-- NOTES (R134). -/
  | dropNotes (p : Port) (n : Nat) (some : n ≠ 0) : Move s (s.modQueue p fun q => q.drop n)
  /-- CAL BEGIN (R141). -/
  | beginCal (p : Port) (b : Byte) (x : CalContext) (passes : s.beginCheck p b = .ok x) : Move s (s.beginCal x)
  /-- CAL DRIVE, COMPUTE or DEFAULT (R142, R144, R145). -/
  | setCal (x : CalContext) (phase : CalPhase) (computed : Option Coeff) (held : s.cal = some x)
      (before : x.phase ≠ .committing) (after : phase ≠ .committing) (formed : computed.isSome ↔ phase = .computed) :
      Move s (s.setCal { x with phase, computed })
  /-- CAL MEASURE (R143). -/
  | measure (x : CalContext) (v : Int) (point : CalPoint) (held : s.cal = some x) :
      Move s { s with cal := some (x.measure v point) }
  /-- CAL COMMIT, with its port (R148). -/
  | commit (x : CalContext) (seq : Byte) (held : s.cal = some x) (computed : x.phase = .computed) :
      Move s (State.modPort { s with cal := some { x with phase := .committing } } x.port
        fun y => { y with transport := .executing seq })
  /-- CAL ABORT (R146). -/
  | abort (x : CalContext) (held : s.cal = some x) (working : x.phase ≠ .committing) : Move s (s.closeCal x.channel)
  /-- The completion of a commit (R150, R151). -/
  | commitDone (x : CalContext) (held : s.cal = some x) (committing : x.phase = .committing) : Move s (s.commitDone x)
  | commitFailed (x : CalContext) (held : s.cal = some x) (committing : x.phase = .committing) :
      Move s (s.commitFailed x)

/-- A chain of moves. -/
def Moves : State → State → Prop := Relation.ReflTransGen Move

namespace Moves

variable {s t u : State}

theorem refl (s : State) : Moves s s := Relation.ReflTransGen.refl

theorem of_move (h : Move s t) : Moves s t := Relation.ReflTransGen.single h

theorem trans (h : Moves s t) (k : Moves t u) : Moves s u := Relation.ReflTransGen.trans h k

theorem of_ite {P : Prop} [Decidable P] (h : P → Moves s t) (k : ¬P → Moves s u) : Moves s (if P then t else u) := by
  split
  · next p => exact h p
  · next p => exact k p

/-- What every move keeps, a chain keeps. -/
theorem keeps {I : State → Prop} (step : ∀ s t, Move s t → I s → I t) (h : Moves s t) (i : I s) : I t := by
  induction h with
  | refl => exact i
  | tail _ m ih => exact step _ _ m ih

/-- What the inert moves change. -/
theorem sameBut_inert
    (same : t = { s with
      ceilings := t.ceilings, store := t.store, timebase := t.timebase, starting := t.starting
      resetAsserted := t.resetAsserted, stepDue := t.stepDue }) :
    SameBut [.ceilings, .store, .timebase, .starting, .resetAsserted, .stepDue] s t := by
  rw [same]
  intro y hy
  cases y <;> simp [Part.Same] at hy ⊢

theorem port {p : Port} {k : PortState → PortState} (kept : (k (s.port p)).isExecuting = (s.port p).isExecuting) :
    Moves s (s.modPort p k) := of_move (.port p k kept)

theorem notifyAll (l : List (Port × NoteBody)) : Moves s (s.notifyAll l) := by
  induction l generalizing s with
  | nil => exact refl s
  | cons x l ih => exact (of_move (.notify x.1 x.2)).trans ih

end Moves

/-! ## The paced events are chains of moves -/

section Events

variable (s : State)

theorem moves_newSelection (p : Port) : Moves s (s.newSelection p) := .port rfl

theorem moves_takeFlags (n : Nat) : Moves s (s.takeFlags n) := (Moves.of_move (.flags n)).trans (.notifyAll _)

theorem moves_takeAllFlags : Moves s s.takeAllFlags := .of_ite (fun _ => moves_takeFlags s 31) fun _ => .refl s

theorem moves_stepChannels : Moves s s.stepChannels :=
  (Moves.of_move .engine).trans ((Moves.notifyAll _).trans (.of_move (.inert rfl rfl le_rfl)))

theorem moves_takeStep : Moves s s.takeStep :=
  .of_ite (fun _ => (moves_takeAllFlags s).trans (moves_stepChannels _)) fun _ => .refl s

theorem moves_takeLoss (b : Bank) : Moves s (s.takeLoss b) :=
  .of_ite (fun _ => (moves_takeAllFlags s).trans ((Moves.of_move (.loseField b)).trans (.notifyAll _))) fun _ => .refl s

theorem moves_takeRestore (b : Bank) : Moves s (s.takeRestore b) := by
  refine .of_ite (fun due => ?_) fun _ => .refl s
  have lost : (s.takeAllFlags.bank b).field = .lost := by
    rw [(sameBut_takeAllFlags s).bank (by simp)]
    simpa [BankState.restoreDue] using And.left (by simpa [BankState.restoreDue] using due)
  exact (moves_takeAllFlags s).trans ((Moves.of_move (.restoreField b lost)).trans (.notifyAll _))

theorem moves_takeFieldEvents : Moves s s.takeFieldEvents := by
  unfold State.takeFieldEvents
  generalize allBanks = l
  induction l generalizing s with
  | nil => exact .refl s
  | cons b l ih => exact ((moves_takeLoss s b).trans (moves_takeRestore _ b)).trans (ih _)

theorem moves_takeUnit : Moves s s.takeUnit :=
  .of_ite (fun _ => (moves_takeAllFlags s).trans (.of_move .countUnit)) fun _ => .refl s

theorem moves_takeExpiries (n : Nat) : Moves s (s.takeExpiries n) := (Moves.of_move (.expire n)).trans (.notifyAll _)

theorem moves_expireClaims : Moves s s.expireClaims := .of_ite (fun _ => .of_move (.dropClaims _ _)) fun _ => .refl s

theorem moves_takeClaimExpiry : Moves s s.takeClaimExpiry :=
  .of_ite (fun _ => (moves_takeAllFlags s).trans ((Moves.of_move .countWaits).trans (moves_expireClaims _)))
    fun _ => .refl s

theorem moves_takeLapse : Moves s s.takeLapse :=
  .of_ite (fun _ => (moves_takeAllFlags s).trans (.of_move .lapse)) fun _ => .refl s

theorem moves_takeDue : Moves s s.takeDue :=
  (moves_takeAllFlags s).trans <| (moves_takeStep _).trans <| (moves_takeFieldEvents _).trans <|
    (moves_takeUnit _).trans <| (moves_takeExpiries _ 15).trans <|
    (moves_takeClaimExpiry _).trans (moves_takeLapse _)

theorem moves_settled : Moves s s.settled := .of_ite (fun _ => .refl s) fun _ => moves_takeDue s

theorem moves_beginTick (field : Vector Bool 4) (loop : Vector Int 16) : Moves s (s.beginTick field loop) :=
  (moves_settled s).trans ((Moves.of_move (.monitor field loop)).trans (.of_move (.inert rfl rfl (Nat.le_succ _))))

theorem moves_updateTick (field : Vector Bool 4) (loop : Vector Int 16) (order : TickOrder) :
    Moves s (s.updateTick field loop order) := by
  refine .of_ite (fun _ => ?_) fun _ => .refl s
  have tick := moves_beginTick s field loop
  cases order with
  | whole => exact tick.trans (moves_settled _)
  | stepFirst => exact tick.trans (moves_takeStep _)
  | stepLast => exact tick
  | stepNow => exact moves_takeStep s

theorem moves_setHold (h : HoldState) (b : NoteBody) : Moves s (s.setHold h b) :=
  (Moves.of_move (.inert (t := { s with timebase := { s.timebase with hold := h } }) rfl rfl le_rfl)).trans
    (.notifyAll _)

theorem committing_some {s : State} {x : CalContext} (h : s.committing = some x) :
    s.cal = some x ∧ x.phase = .committing := by
  simpa [State.committing, Option.filter_eq_some_iff] using h

theorem moves_completeCommit (verified : Bool) : Moves s (s.completeCommit verified) := by
  unfold State.completeCommit
  split
  · next x h =>
    obtain ⟨held, committing⟩ := committing_some h
    exact .of_ite (fun _ => .of_move (.commitDone x held committing)) fun _ => .of_move
      (.commitFailed x held committing)
  · exact .refl s

theorem moves_loadStore : Moves s s.loadStore := .of_move (.inert rfl rfl le_rfl)

theorem moves_endReset (straps : Vector (BitVec 2) 4) (mhold : Bool) : Moves s (s.endReset straps mhold) :=
  .of_move (.inert rfl rfl le_rfl)

end Events

end Sys2Proof.Machine

/-! # What a request does: the outcomes of its frame, and what its block serves -/

namespace Sys2Proof.Machine

/-! ## The outcomes of a frame (R165 to R169) -/

section Frames

variable {α : Type} {s : State} {p : Port} {kind : Byte} {lead : List Byte} {f : Frame} {g : GateClass}
  {refusal : Payload} {operands : List Byte → Option α} {run : α → State → State × Option Reply}

/-- What a port makes of a frame on `u`, the state in which its selection ends: the frame stays at the port, or its
block replies, or its block accepts a COMMIT without a reply. -/
inductive FrameOutcome (u : State) (p : Port) (kind : Byte) (f : Frame) (g : GateClass)
    (operands : List Byte → Option α)
    (run : α → State → State × Option Reply) : State → Prop
  | port (k : PortState → PortState) (kept : (k (u.port p)).isExecuting = (u.port p).isExecuting)
      (selection : (k (u.port p)).sending = (u.port p).sending) : FrameOutcome u p kind f g operands run (u.modPort p k)
  | replied (a : α) (t : State) (r : Reply) (ready : (u.port p).transport = .ready)
      (admitted : u.gate g p f.epoch = none) (read : operands f.payload = some a) (served : run a u = (t, some r)) :
      FrameOutcome u p kind f g operands run (t.complete p kind f.seq r)
  | silent (a : α) (t : State) (ready : (u.port p).transport = .ready)
      (admitted : u.gate g p f.epoch = none) (read : operands f.payload = some a) (served : run a u = (t, none)) :
      FrameOutcome u p kind f g operands run (t.modPort p fun x => { x with transport := .executing f.seq })

/-- A response placed on a READY port, whatever becomes of the saved copy. -/
theorem isExecuting_answered {x : PortState} (ready : x.transport = .ready) (w : Response) (replay : Bool)
    (saved : Option SavedCopy) :
    PortState.isExecuting { x with transport := .answered w replay, saved := saved } = x.isExecuting := by
  simp [PortState.isExecuting, ready]

theorem execute_outcome {u : State} {a : α} (ready : (u.port p).transport = .ready)
    (read : operands f.payload = some a) :
    FrameOutcome u p kind f g operands run (u.execute p kind f g refusal (run a)) := by
  unfold State.execute
  split
  · exact .port _ (isExecuting_answered ready _ _ _) rfl
  · next admitted =>
    split
    · next t r served => exact .replied a t r ready admitted read served
    · next t served => exact .silent a t ready admitted read served

theorem takeFrame_outcome {u : State} {length : Nat} (ready : (u.port p).transport = .ready) :
    FrameOutcome u p kind f g operands run (u.takeFrame p kind f length g refusal (operands f.payload) run) := by
  have placed : ∀ w replay, FrameOutcome u p kind f g operands run (u.answer p w replay) :=
    fun w replay => .port _ (isExecuting_answered ready w replay _) rfl
  unfold State.takeFrame
  split
  · exact placed _ _
  · split
    · exact placed _ _
    · split
      · exact placed _ _
      · next read =>
        split
        · exact placed _ _
        · exact execute_outcome ready read

theorem receive_outcome :
    FrameOutcome (s.takeAllFlags.newSelection p) p kind f g operands run
      (s.receive p kind lead f g refusal operands run) := by
  unfold State.receive
  dsimp only
  split
  · split
    · exact .port _ rfl rfl
    · exact .port _ rfl rfl
    · next ready => exact takeFrame_outcome ready
  · exact .port _ rfl rfl

end Frames

/-! ## What a block serves -/

/-- The results that are no refusals (the scope file, "Results"). -/
def Reply.accepts (r : Reply) : Prop := r.result ∈ [Result.ok, .granted, .queued]

/-- What a request of port `p` does to the state beyond its port: moves, which leave every port and every other
session. -/
structure Served (s : State) (p : Port) (t : State) : Prop where
  moves : Moves s t
  ports : t.ports = s.ports
  sessions : ∀ q, q ≠ p → t.session q = s.session q

/-- A block replies to a request of port `p`, changing nothing or accepting it; or it accepts a COMMIT without a reply.
-/
inductive Replies (s : State) (p : Port) (seq : Byte) : State × Option Reply → Prop
  | unchanged (r : Reply) : Replies s p seq (s, some r)
  | accepted (t : State) (r : Reply) (accepts : r.accepts) (served : Served s p t) : Replies s p seq (t, some r)
  | commits (t : State) (moves : Moves s (t.modPort p fun x => { x with transport := .executing seq }))
      (ports : t.ports = s.ports) (sessions : t.sessions = s.sessions) : Replies s p seq (t, none)

namespace Served

variable {s t u : State} {p : Port}

/-- A request that leaves every session but its own, and every port. -/
theorem of_sameBut {l : List Part} (moves : Moves s t) (same : SameBut l s t)
    (n : Part.ports ∉ l ∧ Part.sessions ∉ l) : Served s p t :=
  ⟨moves, same .ports n.1, fun _ _ => same.session n.2 _⟩

theorem trans (h : Served s p t) (k : Served t p u) : Served s p u :=
  ⟨h.moves.trans k.moves, k.ports.trans h.ports, fun q n => (k.sessions q n).trans (h.sessions q n)⟩

end Served

section Gate

variable {s : State} {p : Port} {e : Half}

/-- The gate admits a gated kind in an open session alone (R56). -/
theorem sessionOpen_of_gated (h : s.gate .gated p e = none) : s.sessionOpen p := by
  rw [sessionOpen_iff]
  cases k : (s.session p).state <;> simp [State.gate, k] at h ⊢

theorem epoch_of_gated (h : s.gate .gated p e = none) : e = (s.session p).epoch := by
  cases k : (s.session p).state <;> simp [State.gate, k] at h <;> exact h

end Gate

section Blocks

variable {s : State} {p : Port} {seq : Byte}

theorem replies_open (a : Byte × Byte) : Replies s p seq (openRequest p a s) := by
  unfold openRequest
  split
  · exact .unchanged _
  · next closed =>
    split
    · exact .unchanged _
    · next bad =>
      obtain ⟨-, leased⟩ := not_or.1 bad
      refine .accepted _ _ (.head _) ⟨.of_move (.openAs p _ _ (by simpa using closed) ?_), ?_, fun q n => ?_⟩
      · exact fun zero => leased (BitVec.eq_of_toNat_eq zero)
      · exact sameBut_openAs s p _ _ .ports (by simp)
      · rw [session_openAs, if_neg n.symm]

theorem replies_close (ready : (s.port p).transport = .ready) (a : Unit) : Replies s p seq (closeRequest p a s) := by
  unfold closeRequest
  split
  · next opened =>
    refine .accepted _ _ (.head _) ⟨.of_move (.close p opened (by simp [PortState.isExecuting, ready])), ?_,
      fun q n => ?_⟩
    · rw [show _ = _ from sameBut_clearSession _ p .ports (by simp), ports_grantPass]
      rfl
    · rw [session_clearSession, if_neg n.symm, session_grantPass]
      rfl
  · next closed =>
    refine .accepted _ _ (.head _) ⟨.of_move (.clear p (by simpa using closed)), rfl, fun q n => ?_⟩
    rw [session_clearSession, if_neg n.symm]

theorem served_refreshLease (opened : s.sessionOpen p) : Served s p (s.refreshLease p) :=
  ⟨.of_move (.refresh p opened), rfl, fun q n => by rw [session_refreshLease, if_neg n.symm]⟩

theorem replies_mode (opened : s.sessionOpen p) (mode : Byte) : Replies s p seq (modeRequest p mode s) := by
  unfold modeRequest
  split
  · split
    · next run =>
      exact .accepted _ _ (.head _) ⟨.of_move (.goIdle p (running_iff.1 run)), rfl, fun q n => by
        rw [session_goIdle, if_neg n.symm]⟩
    · exact .unchanged _
  · split
    · exact .unchanged _
    · next stopped =>
      split
      · exact .unchanged _
      · next free =>
        have idle := (sessionOpen_iff.1 opened).resolve_right (mt running_iff.2 stopped)
        exact .accepted _ _ (.head _) ⟨.of_move (.goRun p idle (by simpa using free)), rfl, fun q n => by
          rw [session_goRun, if_neg n.symm]⟩
  · exact .unchanged _

/-- Where no channel of the set has an owner, there is nothing to revoke. -/
theorem revoke_of_unowned {set : ChanSet} (h : ∀ c, inSet set c → (s.chan c).owner = none) : s.revoke p set = s := by
  have none : s.ownedIn set = [] := by
    simp only [State.ownedIn, List.filter_eq_nil_iff, Bool.and_eq_true, not_and]
    intro c _ hc
    simp [h c hc]
  unfold State.revoke
  rw [none, mapChans_id]
  · rfl
  · intro c
    by_cases hc : inSet set c
    · simp [h c hc]
    · simp [hc]

theorem clearOfClaims_of_claimCheck {a : ClaimOperands} (h : s.claimCheck p a = none) : s.ClearOfClaims p a.set := by
  intro k hk own c hc
  by_contra named
  have overlap : s.overlaps p a.set :=
    overlaps_iff.2 (.inr ⟨k, hk, own, c, hc, by simpa using named⟩)
  unfold State.claimCheck at h
  simp only [overlap, if_true] at h
  split at h <;> cases h

/-- A CLAIM that takes its set, by preemption where a channel of it has an owner (R32 to R34). -/
theorem served_take {set : ChanSet} (opened : s.sessionOpen p) (clear : s.ClearOfClaims p set)
    (uncalibrated : ∀ c, inSet set c → (s.chan c).owner.isSome → s.calNames c = false) :
    Served s p ((s.revoke p set).grant p set).grantPass :=
  .of_sameBut (l := [.chans, .claims, .queues]) (.of_move (.take p set opened clear uncalibrated))
    (SameBut.trans ((sameBut_revoke s p set).weaken (by simp))
      (SameBut.trans ((sameBut_grant _ p set).weaken (by simp)) (sameBut_grantPass _))) (by simp)

theorem replies_claim (opened : s.sessionOpen p) (a : ClaimOperands) : Replies s p seq (claimRequest p a s) := by
  unfold claimRequest
  split
  · exact .unchanged _
  · next passes =>
    have clear := clearOfClaims_of_claimCheck passes
    unfold State.decideClaim
    dsimp only
    split
    · next grantable =>
      have unowned : ∀ c, inSet a.set c → (s.chan c).owner = none := fun c hc =>
        owner_eq_none.2 ((grantable_iff.1 grantable c hc).imp_right And.left)
      have take := served_take opened clear fun c hc owned => by simp [unowned c hc] at owned
      rw [revoke_of_unowned unowned] at take
      exact .accepted _ _ (.tail _ (.head _)) take
    · split
      · next preempts =>
        have passes := preempts_iff.1 (Bool.and_eq_true_iff.1 preempts).2
        refine .accepted _ _ (.tail _ (.head _)) (served_take opened clear fun c hc owned => ?_)
        obtain ⟨q, own⟩ := owner_isSome.1 owned
        have := passes c hc
        rw [own] at this
        exact this.2.2
      · split
        · split
          · next room =>
            refine .accepted _ _ (.tail _ (.tail _ (.head _)))
              (.of_sameBut (l := [.chans, .claims, .queues, .arrivals])
                (.of_move (.queueClaim p a opened passes room.1 room.2)) ?_ (by simp))
            refine SameBut.trans
              (b := { s with claims := insertClaim (s.newClaim p a) s.claims, arrivals := s.arrivals + 1 })
              ?_ ((sameBut_grantPass _).weaken (by simp))
            intro y hy
            cases y <;> simp [Part.Same] at hy ⊢
          · exact .unchanged _
        · exact .unchanged _

theorem replies_cancel (tag : Byte) : Replies s p seq (cancelRequest p tag s) := by
  unfold cancelRequest
  split
  · exact .unchanged _
  · split
    · exact .accepted _ _ (.head _)
        ⟨.of_move (.dropClaims (fun k => !(s.ownsClaim p k && decide (k.tag = tag))) []), ports_grantPass _,
          fun q _ => session_grantPass _ q⟩
    · exact .unchanged _

theorem replies_release (set : ChanSet) : Replies s p seq (releaseRequest p set s) := by
  unfold releaseRequest
  split
  · exact .unchanged _
  · split
    · exact .unchanged _
    · next owns =>
      split
      · exact .unchanged _
      · next busy =>
        refine .accepted _ _ (.head _) ⟨.of_move (.release p set (ownsAll_iff.1 (by simpa using owns)) fun c hc => ?_),
          ports_grantPass _, fun q _ => session_grantPass _ q⟩
        by_contra named
        exact busy (List.any_eq_true.2 ⟨c, mem_allChannels c, by simpa [hc] using named⟩)

theorem replies_write (opened : s.sessionOpen p) (a : List (Byte × Int)) : Replies s p seq (writeRequest p a s) := by
  unfold writeRequest
  split
  · exact .unchanged _
  · split
    · exact .unchanged _
    · split
      · exact .unchanged _
      · next l _ _ _ =>
        have stored : Served s p (s.storeTargets l) :=
          .of_sameBut (.of_move (.storeTargets l)) (sameBut_storeTargets s l) (by simp)
        exact .accepted _ _ (.head _) (stored.trans (served_refreshLease opened))

theorem record_inBounds {a : ConfigureOperands} {k : ChanConfig} (h : a.record = some k) : k.inBounds := by
  unfold ConfigureOperands.record at h
  split at h
  · dsimp only at h
    split at h
    · next bounds =>
      cases h
      exact bounds
    · cases h
  · cases h

theorem replies_configure (a : ConfigureOperands) : Replies s p seq (configureRequest p a s) := by
  unfold configureRequest
  split
  · exact .unchanged _
  · split
    · exact .unchanged _
    · next passes =>
      split
      · exact .unchanged _
      · next record =>
        exact .accepted _ _ (.head _)
          (.of_sameBut (.of_move (.configure p _ _ passes (record_inBounds record)))
            (sameBut_configure s p _ _) (by simp))

theorem replies_read (a : List Byte) : Replies s p seq (readRequest a s) := by
  unfold readRequest
  split
  · exact .unchanged _
  · split <;> exact .unchanged _

theorem replies_notes (b : Byte) : Replies s p seq (notesRequest p b s) := by
  unfold notesRequest
  split
  · exact .unchanged _
  · next count => exact .accepted _ _ (.head _) ⟨.of_move (.dropNotes p _ (by omega)), rfl, fun _ _ => rfl⟩

/-! ### The CAL steps -/

theorem heldContext_some {x : CalContext} (h : s.heldContext p = some x) : s.cal = some x ∧ s.holdsCal p := by
  unfold State.heldContext at h
  split at h
  · next holds => exact ⟨h, holds⟩
  · cases h

theorem working_iff {h : CalPhase} : h.working ↔ h ≠ .committing := by cases h <;> simp [CalPhase.working]

theorem replies_calBegin (b : Byte) : Replies s p seq (calBeginRequest p b s) := by
  unfold calBeginRequest
  split
  · exact .unchanged _
  · next passes =>
    exact .accepted _ _ (.head _) (.of_sameBut (.of_move (.beginCal p b _ passes)) (sameBut_beginCal s _) (by simp))

/-- The steps that change phase and corrections of a context outside COMMITTING. -/
theorem served_setCal {x : CalContext} {phase : CalPhase} {computed : Option Coeff} (held : s.heldContext p = some x)
    (before : x.phase ≠ .committing) (after : phase ≠ .committing) (formed : computed.isSome ↔ phase = .computed) :
    Served s p (s.setCal { x with phase, computed }) :=
  .of_sameBut (.of_move (.setCal x phase computed (heldContext_some held).1 before after formed)) (sameBut_setCal s _)
    (by simp)

theorem replies_calDrive (b : Byte) : Replies s p seq (calDriveRequest p b s) := by
  unfold calDriveRequest
  split
  · exact .unchanged _
  · exact .unchanged _
  · next held _ =>
    split
    · next point _ working =>
      exact .accepted _ _ (.head _)
        (served_setCal held (working_iff.1 working) (by cases point <;> simp [CalPoint.phase])
          (by cases point <;> simp [CalPoint.phase]))
    · exact .unchanged _

theorem replies_calMeasure (a : Byte × Int) : Replies s p seq (calMeasureRequest p a s) := by
  unfold calMeasureRequest
  split
  · exact .unchanged _
  · exact .unchanged _
  · next held _ =>
    split
    · exact .unchanged _
    · split
      · exact .accepted _ _ (.head _) ⟨.of_move (.measure _ _ _ (heldContext_some held).1), rfl, fun _ _ => rfl⟩
      · exact .unchanged _

theorem replies_calCompute (a : Unit) : Replies s p seq (calComputeRequest p a s) := by
  unfold calComputeRequest
  split
  · exact .unchanged _
  · next x held =>
    split
    · next mL mH measurable _ _ =>
      have before : x.phase ≠ .committing := by
        intro committing
        simp [CalPhase.measurable, committing] at measurable
      unfold State.compute
      split
      · exact .unchanged _
      · dsimp only
        split
        · exact .accepted _ _ (.head _) (served_setCal held before (by simp) (by simp))
        · exact .unchanged _
    · exact .unchanged _

theorem replies_calDefault (a : Unit) : Replies s p seq (calDefaultRequest p a s) := by
  unfold calDefaultRequest
  split
  · exact .unchanged _
  · next held =>
    split
    · next working =>
      exact .accepted _ _ (.head _) (served_setCal held (working_iff.1 working) (by simp) (by simp))
    · exact .unchanged _

theorem port_of_holdsCal {x : CalContext} (held : s.cal = some x) (holds : s.holdsCal p) : x.port = p := by
  simp only [State.holdsCal, held, Bool.and_eq_true, decide_eq_true_eq] at holds
  exact holds.1

theorem replies_calCommit (a : Unit) : Replies s p seq (calCommitRequest p a s) := by
  unfold calCommitRequest
  split
  · exact .unchanged _
  · next x held =>
    obtain ⟨cal, holds⟩ := heldContext_some held
    split
    · next computed =>
      refine .commits _ ?_ rfl rfl
      rw [← port_of_holdsCal cal holds]
      exact .of_move (.commit x seq cal computed)
    · exact .unchanged _

theorem replies_calAbort (a : Unit) : Replies s p seq (calAbortRequest p a s) := by
  unfold calAbortRequest
  split
  · exact .unchanged _
  · next held =>
    split
    · next working =>
      exact .accepted _ _ (.head _)
        (.of_sameBut (.of_move (.abort _ (heldContext_some held).1 (working_iff.1 working))) (sameBut_closeCal s _)
          (by simp))
    · exact .unchanged _

end Blocks

/-- Every request row but TIMEBASE WRITE goes through `receive` to a block that replies as `Replies` says. -/
theorem exec_request_replies {i : Instr} {r : Request} (h : requestOf i = some r)
    (n : ∀ p f, i ≠ .timebaseWrite p f) :
    ∃ (α : Type) (refusal : Payload) (operands : List Byte → Option α) (run : α → State → State × Option Reply),
      (∀ s, exec i s = .next (s.receive r.port r.kind r.lead r.frame r.gate refusal operands run)) ∧
      ∀ u a, (u.port r.port).transport = .ready → u.gate r.gate r.port r.frame.epoch = none →
        operands r.frame.payload = some a → Replies u r.port r.frame.seq (run a u) := by
  cases i with
  | timebaseWrite p f => exact absurd rfl (n p f)
  | openSession => cases h; exact ⟨_, _, _, _, fun _ => rfl, fun _ a _ _ _ => replies_open a⟩
  | closeSession => cases h; exact ⟨_, _, _, _, fun _ => rfl, fun _ a ready _ _ => replies_close ready a⟩
  | refresh => cases h; exact ⟨_, _, _, _, fun _ => rfl, fun _ _ _ gate _ =>
      .accepted _ _ (.head _) (served_refreshLease (sessionOpen_of_gated gate))⟩
  | mode => cases h; exact ⟨_, _, _, _, fun _ => rfl, fun _ a _ gate _ => replies_mode (sessionOpen_of_gated gate) a⟩
  | claim => cases h; exact ⟨_, _, _, _, fun _ => rfl, fun _ a _ gate _ => replies_claim (sessionOpen_of_gated gate) a⟩
  | cancel => cases h; exact ⟨_, _, _, _, fun _ => rfl, fun _ a _ _ _ => replies_cancel a⟩
  | release => cases h; exact ⟨_, _, _, _, fun _ => rfl, fun _ a _ _ _ => replies_release a⟩
  | write => cases h; exact ⟨_, _, _, _, fun _ => rfl, fun _ a _ gate _ => replies_write (sessionOpen_of_gated gate) a⟩
  | configure => cases h; exact ⟨_, _, _, _, fun _ => rfl, fun _ a _ _ _ => replies_configure a⟩
  | read => cases h; exact ⟨_, _, _, _, fun _ => rfl, fun _ a _ _ _ => replies_read a⟩
  | notes => cases h; exact ⟨_, _, _, _, fun _ => rfl, fun _ a _ _ _ => replies_notes a⟩
  | calBegin => cases h; exact ⟨_, _, _, _, fun _ => rfl, fun _ a _ _ _ => replies_calBegin a⟩
  | calDrive => cases h; exact ⟨_, _, _, _, fun _ => rfl, fun _ a _ _ _ => replies_calDrive a⟩
  | calMeasure => cases h; exact ⟨_, _, _, _, fun _ => rfl, fun _ a _ _ _ => replies_calMeasure a⟩
  | calCompute => cases h; exact ⟨_, _, _, _, fun _ => rfl, fun _ a _ _ _ => replies_calCompute a⟩
  | calDefault => cases h; exact ⟨_, _, _, _, fun _ => rfl, fun _ a _ _ _ => replies_calDefault a⟩
  | calCommit => cases h; exact ⟨_, _, _, _, fun _ => rfl, fun _ a _ _ _ => replies_calCommit a⟩
  | calAbort => cases h; exact ⟨_, _, _, _, fun _ => rfl, fun _ a _ _ _ => replies_calAbort a⟩
  | calUnknownStep | timebaseRead | timebaseUnknownVariant | status =>
      cases h; exact ⟨_, _, _, _, fun _ => rfl, fun _ _ _ _ _ => .unchanged _⟩
  | unknownKindFrame => cases h; exact ⟨_, _, _, _, fun _ => rfl, fun _ _ _ _ read => nomatch read⟩
  | _ => cases h

end Sys2Proof.Machine

/-! # Every command as a chain of moves -/

namespace Sys2Proof.Machine

section Frames

variable {α : Type} {s u t : State} {p : Port} {kind : Byte} {f : Frame} {g : GateClass}
  {operands : List Byte → Option α} {run : α → State → State × Option Reply}

theorem moves_complete (ready : (t.port p).transport = .ready) (seq : Byte) (r : Reply) :
    Moves t (t.complete p kind seq r) :=
  .port (isExecuting_answered ready _ _ _)

/-- A frame whose block replies as `Replies` says is a chain of moves. -/
theorem FrameOutcome.moves (h : FrameOutcome u p kind f g operands run t)
    (replies : ∀ a, (u.port p).transport = .ready → u.gate g p f.epoch = none → operands f.payload = some a →
      Replies u p f.seq (run a u)) : Moves u t := by
  cases h with
  | port k kept _ => exact .port kept
  | replied a v r ready admitted read served =>
    have reply := replies a ready admitted read
    rw [served] at reply
    cases reply with
    | unchanged => exact moves_complete ready _ _
    | accepted _ _ _ block =>
      refine block.moves.trans (moves_complete ?_ _ _)
      rw [State.port, block.ports]
      exact ready
  | silent a v ready admitted read served =>
    have reply := replies a ready admitted read
    rw [served] at reply
    cases reply with
    | commits _ moves _ _ => exact moves

end Frames

theorem moves_discarded {s : State} {p : Port} {k : PortState → PortState}
    (kept : ∀ x, (k x).isExecuting = x.isExecuting) :
    Moves s ((s.takeAllFlags.newSelection p).modPort p k) :=
  (moves_takeAllFlags s).trans ((moves_newSelection _ p).trans (.port (kept _)))

theorem isExecuting_clockedOut (x : PortState) : x.clockedOut.isExecuting = x.isExecuting := by
  unfold PortState.clockedOut
  split
  · next answered =>
    split <;> simp [PortState.isExecuting, answered]
  · rfl

theorem moves_of_next {s t u : State} (h : (.next u : Host.Outcome State Fault Refusal) = .next t) (k : Moves s u) :
    Moves s t := by
  cases h
  exact k

theorem moves_of_ite {P : Prop} [Decidable P] {s t u v : State}
    (h : (if P then .next u else .next v : Host.Outcome State Fault Refusal) = .next t) (k : Moves s u)
    (l : Moves s v) : Moves s t := by
  split at h
  · exact moves_of_next h k
  · exact moves_of_next h l

/-- A TIMEBASE WRITE is a chain of moves, or it sets the parameters while no session is open, once everything due has
been taken (R159, R160). -/
theorem timebaseWrite_moves {s t : State} {p : Port} {f : Frame} (h : exec (.timebaseWrite p f) s = .next t) :
    Moves s t ∨ ∃ period multiple, s.locked = false ∧
      Moves ((s.takeAllFlags.newSelection p).settled.setTimebase period multiple) t := by
  have start := (moves_takeAllFlags s).trans (moves_newSelection _ p)
  have lock : (s.takeAllFlags.newSelection p).locked = s.locked := by
    simp only [State.locked, State.sessionOpen, session_newSelection, (sameBut_takeAllFlags s).session (by simp)]
  have outcome : FrameOutcome (s.takeAllFlags.newSelection p) p kindTimebase f .exempt timebaseOperands
      timebaseWriteRequest t := Host.Outcome.next.inj h ▸ receive_outcome
  cases outcome with
  | port k kept _ => exact .inl (start.trans (.port kept))
  | replied a v r ready _ _ served =>
    unfold timebaseWriteRequest at served
    split at served
    · next period multiple _ _ =>
      split at served
      · cases served
        exact .inl (start.trans (moves_complete ready _ _))
      · next unlocked =>
        cases served
        refine .inr ⟨period, multiple, by rw [← lock]; simpa using unlocked, moves_complete ?_ _ _⟩
        exact (congrArg PortState.transport ((sameBut_settled _).port (by simp) p)).trans ready
    · cases served
      exact .inl (start.trans (moves_complete ready _ _))
  | silent a v _ _ _ served =>
    unfold timebaseWriteRequest at served
    split at served
    · split at served <;> cases served
    · cases served

/-- Every command but RESET and TIMEBASE WRITE is a chain of moves. -/
theorem exec_moves {i : Instr} {s t : State} (h : exec i s = .next t) (reset : ∀ done, i ≠ .reset done)
    (write : ∀ p f, i ≠ .timebaseWrite p f) : Moves s t := by
  have flags := moves_takeAllFlags s
  cases q : requestOf i with
  | some r =>
    obtain ⟨α, refusal, operands, run, next, replies⟩ := exec_request_replies q write
    rw [next] at h
    cases h
    exact flags.trans ((moves_newSelection _ r.port).trans (receive_outcome.moves (replies _)))
  | none =>
    cases i with
    | reset done => exact absurd rfl (reset done)
    | resetEnd straps mhold => exact moves_of_ite h (moves_endReset s straps mhold) (.refl s)
    | startUpLoadCompletion => exact moves_of_ite h (flags.trans (moves_loadStore _)) (.refl s)
    | frameError p received => exact moves_of_ite h (moves_discarded fun _ => rfl) (.refl s)
    | fetch p => exact moves_of_next h (flags.trans (.port rfl))
    | responseClockedOut p => exact moves_of_next h (flags.trans (.port (isExecuting_clockedOut _)))
    | updateTick field loop order => exact moves_of_next h (moves_updateTick s field loop order)
    | timerUnitEvent => exact moves_of_next h (moves_takeUnit s)
    | lapse => exact moves_of_next h (moves_takeLapse s)
    | claimWaitExpiry => exact moves_of_next h (moves_takeClaimExpiry s)
    | handoverTimerExpiry c => exact moves_of_ite h (flags.trans (moves_takeExpiries _ _)) (.refl s)
    | fieldLoss b => exact moves_of_next h (moves_takeLoss s b)
    | fieldRestore b => exact moves_of_next h (moves_takeRestore s b)
    | openLoadFlagChange | deviationFlagChange => exact moves_of_ite h (moves_takeFlags s _) (.refl s)
    | holdAssertion | holdRelease => exact moves_of_ite h ((moves_settled s).trans (moves_setHold _ _ _)) (.refl s)
    | commitCompletion verified => exact moves_of_next h (flags.trans (moves_completeCommit _ verified))
    | crcErrorFrame p kind f => exact moves_of_ite h (.refl s) (moves_discarded fun _ => rfl)
    | _ => simp [requestOf] at q

/-- A property that RESET establishes, that every move keeps, and that the parameters set by TIMEBASE WRITE keep, is
kept by every step. -/
theorem step_keeps {I : State → Prop} (pending : ∀ s l, I s → I { s with pending := l })
    (reset : ∀ s done t, exec (.reset done) s = .next t → I t) (move : ∀ s t, Move s t → I s → I t)
    (set : ∀ (s : State) period multiple, s.locked = false → I s.settled → I (s.settled.setTimebase period multiple))
    {s t : State} (i : I s) (h : step s = .next t) : I t := by
  unfold step at h
  split at h
  · cases h
    exact i
  · next j rest _ =>
    have i := pending s rest i
    by_cases isReset : ∃ done, j = .reset done
    · obtain ⟨done, rfl⟩ := isReset
      exact reset _ _ _ h
    by_cases isWrite : ∃ p f, j = .timebaseWrite p f
    · obtain ⟨p, f, rfl⟩ := isWrite
      rcases timebaseWrite_moves h with moves | ⟨period, multiple, unlocked, moves⟩
      · exact moves.keeps move i
      · refine moves.keeps move (set _ _ _ ?_ ?_)
        · generalize ({ s with pending := rest } : State) = s' at *
          simpa only [State.locked, State.sessionOpen, session_newSelection,
            (sameBut_takeAllFlags s').session (by simp)] using unlocked
        · exact ((moves_takeAllFlags _).trans ((moves_newSelection _ p).trans (moves_settled _))).keeps move i
    · exact (exec_moves h (fun d e => isReset ⟨d, e⟩) fun p f e => isWrite ⟨p, f, e⟩).keeps move i

end Sys2Proof.Machine

/-! # The state after RESET -/

namespace Sys2Proof.Machine

/-- The state that RESET leaves: the reset values, with the slots of the store and the commands that wait. -/
def State.resetWith (store : Vector (Vector Cell 4) 16) (l : List Instr) : State :=
  { State.reset with store := store, pending := l }

section Reset

variable (store : Vector (Vector Cell 4) 16) (l : List Instr)

theorem resetWith_reset : State.resetWith State.reset.store [] = State.reset := rfl

theorem exec_reset (done : Bool) (s : State) :
    exec (.reset done) s = .next (.resetWith (s.storeAfterReset done) s.pending) := rfl

@[simp] theorem chan_resetWith (c : Channel) : (State.resetWith store l).chan c = .reset := by
  simp [State.chan, State.resetWith, State.reset]

@[simp] theorem session_resetWith (p : Port) : (State.resetWith store l).session p = .closedContext := by
  simp [State.session, State.resetWith, State.reset]

@[simp] theorem bank_resetWith (b : Bank) : (State.resetWith store l).bank b = ⟨.lost, 0⟩ := by
  simp [State.bank, State.resetWith, State.reset]

@[simp] theorem queue_resetWith (p : Port) : (State.resetWith store l).queue p = [] := by
  simp [State.queue, State.resetWith, State.reset]

@[simp] theorem port_resetWith (p : Port) : (State.resetWith store l).port p = .reset := by
  simp [State.port, State.resetWith, State.reset]

@[simp] theorem claims_resetWith : (State.resetWith store l).claims = [] := rfl
@[simp] theorem cal_resetWith : (State.resetWith store l).cal = none := rfl
@[simp] theorem timebase_resetWith : (State.resetWith store l).timebase = .reset := rfl

@[simp] theorem sessionOpen_resetWith (p : Port) : (State.resetWith store l).sessionOpen p = false := by
  simp [State.sessionOpen, Session.closedContext, Session.isOpen]

end Reset

end Sys2Proof.Machine

/-! # The queues stay within their bound (R127, R128) -/

namespace Sys2Proof.Machine

theorem sameBut_commitDone (s : State) (x : CalContext) : SameBut [.cal, .store, .chans, .ports] s
    (s.commitDone x) := by
  intro y hy
  cases y <;> simp at hy <;> rfl

section Queues

variable {s t : State}

/-- Records handed over in order keep the bound of a queue. -/
theorem queueBounded_joined {q : List Note} (h : QueueBounded q) (l : List Note) : QueueBounded (joined l q) := by
  induction l generalizing q with
  | nil => exact h
  | cons n l ih => exact ih (queueBounded_append h n)

theorem queuesBounded_handed {l : List (Port × NoteBody)} (h : Handed s t l) (k : s.QueuesBounded) :
    t.QueuesBounded := by
  intro p
  rw [h p]
  split
  · exact queueBounded_joined (k p) _
  · exact k p

theorem queuesBounded_mapChans (h : s.QueuesBounded) (f : Channel → Chan → Chan) : (s.mapChans f).QueuesBounded :=
  queuesBounded_congr h (queue_mapChans s f)

theorem queuesBounded_grantPass (h : s.QueuesBounded) : s.grantPass.QueuesBounded := by
  obtain ⟨granted, rest, walked⟩ := grantPass_walked s
  exact queuesBounded_handed walked.handed (queuesBounded_mapChans h _)

theorem queuesBounded_sameBut {l : List Part} (same : SameBut l s t) (n : Part.queues ∉ l) (h : s.QueuesBounded) :
    t.QueuesBounded :=
  queuesBounded_congr h (same.queue n)

theorem queuesBounded_noteLapse (h : s.QueuesBounded) (l : List Port) : (l.foldl State.noteLapse s).QueuesBounded := by
  induction l generalizing s with
  | nil => exact h
  | cons p l ih =>
    refine ih fun q => ?_
    rw [State.noteLapse, queue_modQueue]
    split
    · exact queueBounded_append (h p) _
    · exact h q

theorem queuesBounded_withdraw (h : s.QueuesBounded) (who : Port → Bool) (pick : ChanConfig → Action) :
    (s.withdraw who pick).QueuesBounded :=
  queuesBounded_sameBut (sameBut_withdraw s who pick) (by simp) h

theorem queuesBounded_lapseSessions (h : s.QueuesBounded) : s.lapseSessions.QueuesBounded := by
  have withdrawn := queuesBounded_withdraw h (fun p => (s.session p).lapseDue) ChanConfig.lapseAction
  unfold State.lapseSessions
  split
  · exact queuesBounded_noteLapse
      (queuesBounded_grantPass (queuesBounded_congr withdrawn (queue_mapSessions _ _))) _
  · exact h

theorem queuesBounded_clearSession {p : Port} (h : s.QueuesBounded) : (s.clearSession p).QueuesBounded := by
  intro q
  rw [queue_clearSession]
  split
  · exact queueBounded_nil
  · exact h q

theorem queuesBounded_revoke {p : Port} {set : ChanSet} (h : s.QueuesBounded) : (s.revoke p set).QueuesBounded :=
  queuesBounded_notifyAll (queuesBounded_mapChans h _) _

theorem queuesBounded_commitFailed {x : CalContext} (h : s.QueuesBounded) : (s.commitFailed x).QueuesBounded := by
  unfold State.commitFailed
  dsimp only
  split
  · exact queuesBounded_congr h fun _ => rfl
  · refine queuesBounded_congr (queuesBounded_notify (queuesBounded_congr h ?_) _ _) (queue_complete _ _ _ _ _)
    exact fun _ => rfl

/-- A move lets no queue grow but by a record that joins it (R128). -/
theorem Move.keeps_queuesBounded (m : Move s t) (h : s.QueuesBounded) : t.QueuesBounded := by
  cases m with
  | notify p b => exact queuesBounded_notify h p b
  | dropClaims keep l =>
    refine queuesBounded_grantPass (queuesBounded_notifyAll ?_ l)
    exact queuesBounded_congr h fun _ => rfl
  | lapse => exact queuesBounded_lapseSessions (queuesBounded_congr h fun _ => rfl)
  | countUnit => exact queuesBounded_sameBut (countUnit_spec s).2.2.2.2.2.2.2 (by simp) h
  | openAs p priority lease =>
    intro q
    rw [queue_openAs]
    split
    · exact queueBounded_nil
    · exact h q
  | close p _ _ =>
    exact queuesBounded_clearSession (queuesBounded_grantPass (queuesBounded_withdraw h _ _))
  | clear p _ => exact queuesBounded_clearSession h
  | take p set _ _ _ => exact queuesBounded_grantPass (queuesBounded_mapChans (queuesBounded_revoke h) _)
  | queueClaim p a _ _ _ _ => exact queuesBounded_grantPass (queuesBounded_congr h fun _ => rfl)
  | release p set _ _ => exact queuesBounded_grantPass (queuesBounded_mapChans h _)
  | dropNotes p n some =>
    intro q
    rw [queue_modQueue]
    split
    · exact queueBounded_drop (h p) some
    · exact h q
  | commitFailed x _ _ => exact queuesBounded_commitFailed h
  | inert same _ _ => exact queuesBounded_sameBut (Moves.sameBut_inert same) (by simp) h
  | flags | engine | expire => exact queuesBounded_mapChans h _
  | port p k _ => exact queuesBounded_sameBut (sameBut_modPort k) (by simp) h
  | monitor field loop => exact queuesBounded_sameBut (sameBut_monitor s field loop) (by simp) h
  | countWaits => exact queuesBounded_sameBut (sameBut_countWaits s) (by simp) h
  | refresh p _ => exact queuesBounded_sameBut (sameBut_refreshLease s p) (by simp) h
  | goRun p _ _ => exact queuesBounded_sameBut (sameBut_goRun s p) (by simp) h
  | goIdle p _ => exact queuesBounded_sameBut (sameBut_goIdle s p) (by simp) h
  | storeTargets l => exact queuesBounded_sameBut (sameBut_storeTargets s l) (by simp) h
  | configure p c k _ _ => exact queuesBounded_sameBut (sameBut_configure s p c k) (by simp) h
  | beginCal p b x _ => exact queuesBounded_sameBut (sameBut_beginCal s x) (by simp) h
  | setCal => exact queuesBounded_sameBut (sameBut_setCal s _) (by simp) h
  | abort => exact queuesBounded_sameBut (sameBut_closeCal s _) (by simp) h
  | loseField b => exact queuesBounded_sameBut (sameBut_fieldLost s b) (by simp) h
  | restoreField b _ => exact queuesBounded_sameBut (sameBut_fieldRestored s b) (by simp) h
  | measure | commit => exact fun p => h p
  | commitDone x _ _ => exact queuesBounded_sameBut (sameBut_commitDone s x) (by simp) h

end Queues

theorem queuesBounded_resetWith (store : Vector (Vector Cell 4) 16) (l : List Instr) :
    (State.resetWith store l).QueuesBounded := fun p => by
  rw [queue_resetWith]
  exact queueBounded_nil

/-- Settles O56: RESET empties the queues, and every other command is a chain of moves. -/
theorem queuesStayBounded : Obligations.QueuesStayBounded := by
  intro s t bounded next
  refine step_keeps (fun _ _ h => h) ?_ (fun _ _ => Move.keeps_queuesBounded) (fun _ _ _ _ h => h) bounded next
  rintro s done t ⟨⟩
  exact queuesBounded_resetWith _ _

end Sys2Proof.Machine

/-! # The arbiter stays consistent (R7, R22 to R26) -/

namespace Sys2Proof.Machine

/-! ## One channel: no event of the monitor or the engine changes its owner -/

section Channel

variable (r : Chan)

@[simp] theorem own_sample (high : Bool) (loop : Int) : (r.sample high loop).own = r.own := by
  unfold Chan.sample
  split <;> rfl

@[simp] theorem own_flagsTaken (n : Nat) (c : Channel) : (r.flagsTaken n c).own = r.own := by
  have load : (if r.openLoadDue && decide (openLoadPlace c ≤ n) then r.flipOpenLoad else r).own = r.own := by
    split <;> rfl
  have deviates : ∀ x : Chan,
      (if x.deviationDue && decide (deviationPlace c ≤ n) then x.flipDeviation else x).own = x.own := by
    intro x
    split <;> rfl
  exact (deviates _).trans load

@[simp] theorem own_ramp (t : Int) : (r.ramp t).own = r.own := by
  unfold Chan.ramp
  split <;> rfl

@[simp] theorem own_tick (v : Option Int) : (r.tick v).own = r.own := by
  unfold Chan.tick
  split
  case h_4 =>
    split
    · rfl
    · split <;> rfl
    · exact own_ramp _ _
  case h_5 => exact own_ramp _ _
  case h_7 => split <;> rfl
  all_goals rfl

@[simp] theorem own_restore (run : Bool) : (r.restore run).own = r.own := by
  unfold Chan.restore
  split
  · simp
  · split <;> simp

@[simp] theorem own_countTimer : r.countTimer.own = r.own := by
  unfold Chan.countTimer
  split <;> rfl

@[simp] theorem own_expire : r.expire.own = r.own := by
  unfold Chan.expire
  split <;> rfl

@[simp] theorem own_changeRange (k : ChanConfig) (v run b : Bool) : (r.changeRange k v run b).own = r.own := by
  unfold Chan.changeRange
  split
  · exact own_enter _ _ _
  · rfl

end Channel

/-! ## What the arbiter's invariant reads -/

section Congruence

variable {s t : State}

/-- The sessions are open in both states or in neither, under the same epochs. -/
def SessionsAlike (s t : State) : Prop :=
  ∀ p, t.sessionOpen p = s.sessionOpen p ∧ (t.session p).epoch = (s.session p).epoch

theorem SessionsAlike.of_sessions (h : t.sessions = s.sessions) : SessionsAlike s t := fun p => by
  simp only [State.sessionOpen, State.session, h, and_self]

/-- Owners and claims that were there before, under sessions that stay as they are. -/
theorem ownersOpen_of (sessions : SessionsAlike s t) (owned : ∀ c p, (t.chan c).own = .owned p → s.sessionOpen p)
    (claims : ∀ k ∈ t.claims, ∃ j ∈ s.claims, k.port = j.port ∧ k.epoch = j.epoch)
      (h : s.OwnersOpen) : t.OwnersOpen := by
  refine ⟨fun c p own => ?_, fun k hk => ?_⟩
  · rw [(sessions p).1]
    exact owned c p own
  · obtain ⟨j, hj, port, epoch⟩ := claims k hk
    rw [port, epoch, (sessions _).1, (sessions _).2]
    exact h.2 j hj

theorem ownersOpen_congr (own : ∀ c, (t.chan c).own = (s.chan c).own) (claims : t.claims = s.claims)
    (sessions : SessionsAlike s t) (h : s.OwnersOpen) : t.OwnersOpen :=
  ownersOpen_of sessions (fun c p e => h.1 c p ((own c).symm.trans e)) (fun k hk => ⟨k, claims ▸ hk, rfl, rfl⟩) h

/-- Sessions that neither own a channel nor have a claim may change in any way. -/
theorem ownersOpen_session {who : Port → Bool} (own : ∀ c, (t.chan c).own = (s.chan c).own)
    (claims : t.claims = s.claims)
    (others : ∀ q, who q = false → t.session q = s.session q) (unowned : ∀ c q, who q → (s.chan c).own ≠ .owned q)
    (unclaimed : ∀ k ∈ s.claims, who k.port = false) (h : s.OwnersOpen) : t.OwnersOpen := by
  refine ⟨fun c q e => ?_, fun k hk => ?_⟩
  · rw [own] at e
    have other : who q = false := by
      by_contra changed
      exact unowned c q (by simpa using changed) e
    simpa only [State.sessionOpen, others q other] using h.1 c q e
  · rw [claims] at hk
    simpa only [State.sessionOpen, others _ (unclaimed k hk)] using h.2 k hk

/-- The owners, the list and the sessions are all that the invariant reads. -/
theorem arbitrated_congr (own : ∀ c, (t.chan c).own = (s.chan c).own) (claims : t.claims = s.claims)
    (arrivals : t.arrivals = s.arrivals) (sessions : SessionsAlike s t) (h : s.Arbitrated) : t.Arbitrated where
  order := by
    simpa only [State.ListOrdered, claims, arrivals] using h.order
  owners := ownersOpen_congr own claims sessions h.owners
  reserved := by
    simpa only [State.ReservedForHead, State.wantedByHead, State.reservedByHead, Chan.owner, own,
      claims] using h.reserved
  disjoint := by
    simpa only [State.ClaimsDisjoint, own, claims] using h.disjoint

theorem arbitrated_sameBut {l : List Part} (same : SameBut l s t)
    (n : Part.chans ∉ l ∧ Part.claims ∉ l ∧ Part.arrivals ∉ l ∧ Part.sessions ∉ l) (h : s.Arbitrated) : t.Arbitrated :=
  arbitrated_congr (fun c => by rw [same.chan n.1]) (same .claims n.2.1) (same .arrivals n.2.2.1)
    (.of_sessions (same .sessions n.2.2.2)) h

/-- Channels that keep their owners. -/
theorem arbitrated_own {l : List Part} (same : SameBut l s t)
    (n : Part.claims ∉ l ∧ Part.arrivals ∉ l ∧ Part.sessions ∉ l) (own : ∀ c, (t.chan c).own = (s.chan c).own)
    (h : s.Arbitrated) : t.Arbitrated :=
  arbitrated_congr own (same .claims n.1) (same .arrivals n.2.1) (.of_sessions (same .sessions n.2.2)) h

theorem arbitrated_mapChans {f : Channel → Chan → Chan} (own : ∀ c r, (f c r).own = r.own) (h : s.Arbitrated) :
    (s.mapChans f).Arbitrated :=
  arbitrated_own (sameBut_mapChans s f) (by simp) (fun c => by rw [chan_mapChans, own]) h

/-- A session that neither owns a channel nor has a claim may change in any way. -/
theorem arbitrated_session {p : Port} (chans : t.chans = s.chans) (claims : t.claims = s.claims)
    (arrivals : t.arrivals = s.arrivals) (others : ∀ q, q ≠ p → t.session q = s.session q)
    (unowned : ∀ c, (s.chan c).own ≠ .owned p) (unclaimed : ∀ k ∈ s.claims, k.port ≠ p) (h : s.Arbitrated) :
    t.Arbitrated := by
  have chan : ∀ c, t.chan c = s.chan c := fun c => by simp only [State.chan, chans]
  refine ⟨?_, ?_, ?_, ?_⟩
  · simpa only [State.ListOrdered, claims, arrivals] using h.order
  · exact ownersOpen_session (who := fun q => decide (q = p)) (fun c => by rw [chan]) claims
      (fun q n => others q (by simpa using n)) (fun c q e => by simpa [of_decide_eq_true e] using unowned c)
      (fun k hk => by simpa using unclaimed k hk) h.owners
  · simpa only [State.ReservedForHead, State.wantedByHead, State.reservedByHead, chan, claims] using h.reserved
  · simpa only [State.ClaimsDisjoint, chan, claims] using h.disjoint

/-- A session that is not open owns no channel and has no claim. -/
theorem unowned_of_not_open {p : Port} (h : s.OwnersOpen) (closed : s.sessionOpen p = false) :
    (∀ c, (s.chan c).own ≠ .owned p) ∧ ∀ k ∈ s.claims, k.port ≠ p := by
  refine ⟨fun c own => ?_, fun k hk e => ?_⟩
  · simp [h.1 c p own] at closed
  · simp [← e, (h.2 k hk).1] at closed

end Congruence

/-! ## The grant pass -/

/-- What the invariant says but for the reservations, which a grant pass makes anew. -/
structure State.Pooled (s : State) : Prop where
  order : s.ListOrdered
  owners : s.OwnersOpen
  disjoint : s.ClaimsDisjoint

section GrantPass

variable {s t : State}

theorem State.Arbitrated.pooled (h : s.Arbitrated) : s.Pooled := ⟨h.order, h.owners, h.disjoint⟩

/-- Claims that leave a list leave the rest of it in order and apart. -/
theorem pooled_sublist (claims : t.claims.Sublist s.claims) (arrivals : t.arrivals = s.arrivals)
    (sessions : SessionsAlike s t)
    (owned : ∀ c p, (t.chan c).own = .owned p → s.sessionOpen p)
    (apart : ∀ k ∈ t.claims, ∀ c, inSet k.set c → (t.chan c).own ≠ .owned k.port) (h : s.Pooled) : t.Pooled where
  order := ⟨claims.length_le.trans h.order.1, h.order.2.1.sublist claims, fun k hk => by
    rw [arrivals]
    exact h.order.2.2 k (claims.subset hk)⟩
  owners := ownersOpen_of sessions owned (fun k hk => ⟨k, claims.subset hk, rfl, rfl⟩) h.owners
  disjoint := ⟨fun p => (claims.filter _).length_le.trans (h.disjoint.1 p), h.disjoint.2.1.sublist claims, fun k hk =>
    ⟨(h.disjoint.2.2 k (claims.subset hk)).1, (h.disjoint.2.2 k (claims.subset hk)).2.1, apart k hk⟩⟩

/-- Two claims of one port, one granted and one kept, name no channel together (R26). -/
theorem disjoint_of_perm {l granted rest : List Claim} (perm : (granted ++ rest).Perm l)
    (h : l.Pairwise fun a b => a.port = b.port → a.tag ≠ b.tag ∧ ∀ c, inSet a.set c → inSet b.set c = false)
    {j k : Claim} (hj : j ∈ granted) (hk : k ∈ rest) (port : j.port = k.port) {c : Channel} (hc : inSet k.set c) :
    inSet j.set c = false := by
  have apart : ∀ {a b : Claim}, (a.port = b.port → a.tag ≠ b.tag ∧ ∀ c, inSet a.set c → inSet b.set c = false) →
      b.port = a.port → b.tag ≠ a.tag ∧ ∀ c, inSet b.set c → inSet a.set c = false := by
    intro a b hab e
    refine ⟨(hab e.symm).1.symm, fun c hb => ?_⟩
    by_contra ha
    simp [(hab e.symm).2 c (by simpa using ha)] at hb
  have all := (perm.pairwise_iff apart).2 h
  by_contra named
  simp [((List.pairwise_append.1 all).2.2 j hj k hk port).2 c (by simpa using named)] at hc

/-- A grant pass gives channels to the sessions of claims alone (R27, R28). -/
theorem owned_grantPass (h : s.OwnersOpen) {c : Channel} {p : Port} (own : (s.grantPass.chan c).own = .owned p) :
    s.sessionOpen p := by
  rcases chan_grantPass_cases s c with ⟨k, hk, -, e, -⟩ | ⟨o, e, kept | ⟨free, -⟩⟩
  · rw [e, own_grant] at own
    cases own
    exact (h.2 k hk).1
  · rw [e, kept] at own
    exact h.1 c p own
  · rw [e] at own
    rcases free with rfl | rfl <;> cases own

theorem ownersOpen_grantPass (h : s.OwnersOpen) : s.grantPass.OwnersOpen :=
  ownersOpen_of (.of_sessions (sessions_grantPass s)) (fun _ _ => owned_grantPass h)
    (fun k hk => ⟨k, (claims_grantPass_sublist s).subset hk, rfl, rfl⟩) h

/-- A grant pass on a pool of claims leaves the arbiter consistent (R28). -/
theorem arbitrated_grantPass (h : s.Pooled) : s.grantPass.Arbitrated := by
  obtain ⟨granted, rest, walked⟩ := grantPass_walked s
  have claims : s.grantPass.claims = rest := by simpa using walked.claims
  have pooled : s.grantPass.Pooled := by
    refine pooled_sublist (claims_grantPass_sublist s) (arrivals_grantPass s) (.of_sessions (sessions_grantPass s))
      (fun c p own => owned_grantPass h.owners own) (fun k hk c hc own => ?_) h
    · have kept := h.disjoint.2.2 k ((claims_grantPass_sublist s).subset hk)
      rw [claims] at hk
      by_cases taken : ∃ j ∈ granted, inSet j.set c
      · obtain ⟨j, hj, named⟩ := taken
        rw [walked.taken j hj c named, own_grant] at own
        simp [disjoint_of_perm walked.perm h.disjoint.2.1 hj hk (by simpa using own) hc] at named
      · rcases chan_grantPass_cases s c with ⟨_, _, _, _, _⟩ | ⟨o, e, same | ⟨free, -⟩⟩
        · have other := walked.other c fun j hj => by
            by_contra named
            exact taken ⟨j, hj, by simpa using named⟩
          rw [other] at own
          split at own
          · cases own
          · rw [own_clearReservations] at own
            split at own
            · cases own
            · exact kept.2.2 c hc own
        · rw [e, same] at own
          exact kept.2.2 c hc own
        · rw [e] at own
          rcases free with rfl | rfl <;> cases own
  exact ⟨pooled.order, pooled.owners, grantPass_reservedForHead s, pooled.disjoint⟩

/-- Channels that lose their owner, and keep any other. -/
theorem pooled_freed (own : ∀ c, (t.chan c).own = .free ∨ (t.chan c).own = (s.chan c).own)
    (claims : t.claims.Sublist s.claims) (arrivals : t.arrivals = s.arrivals) (sessions : SessionsAlike s t)
    (h : s.Pooled) : t.Pooled := by
  have kept : ∀ {c p}, (t.chan c).own = .owned p → (s.chan c).own = .owned p := by
    intro c p e
    rcases own c with free | same
    · rw [free] at e
      cases e
    · exact same ▸ e
  exact pooled_sublist claims arrivals sessions (fun c p e => h.owners.1 c p (kept e))
    (fun k hk c hc e => (h.disjoint.2.2 k (claims.subset hk)).2.2 c hc (kept e)) h

end GrantPass

/-! ## The blocks' moves -/

section Blocks

variable {s t : State} {p : Port}

/-- A withdrawal frees channels, and gives none (R48). -/
theorem own_withdraw (who : Port → Bool) (pick : ChanConfig → Action) (c : Channel) :
    ((s.withdraw who pick).chan c).own = .free ∨ ((s.withdraw who pick).chan c).own = (s.chan c).own := by
  rw [chan_withdraw]
  split
  · split
    · exact .inl rfl
    · exact .inr rfl
  all_goals exact .inr rfl

theorem claims_withdraw_sublist (who : Port → Bool) (pick : ChanConfig → Action) :
    (s.withdraw who pick).claims.Sublist s.claims := List.filter_sublist

/-- Sessions are withdrawn: their channels are freed and their claims leave (R48). -/
theorem pooled_withdraw (h : s.Pooled) (who : Port → Bool) (pick : ChanConfig → Action) :
    (s.withdraw who pick).Pooled :=
  have same := sameBut_withdraw s who pick
  pooled_freed (own_withdraw who pick) (claims_withdraw_sublist who pick) (same .arrivals (by simp))
    (.of_sessions (same .sessions (by simp))) h

theorem ownersOpen_freed (own : ∀ c, (t.chan c).own = .free ∨ (t.chan c).own = (s.chan c).own)
    (claims : t.claims.Sublist s.claims) (sessions : SessionsAlike s t) (h : s.OwnersOpen) : t.OwnersOpen :=
  ownersOpen_of sessions (fun c p e => h.1 c p ((own c).resolve_left (by simp [e]) ▸ e))
    (fun k hk => ⟨k, claims.subset hk, rfl, rfl⟩) h

theorem ownersOpen_withdraw (h : s.OwnersOpen) (who : Port → Bool) (pick : ChanConfig → Action) :
    (s.withdraw who pick).OwnersOpen :=
  ownersOpen_freed (own_withdraw who pick) (claims_withdraw_sublist who pick)
    (.of_sessions (sameBut_withdraw s who pick .sessions (by simp))) h

/-- After the withdrawal of a session nothing of it is left (R48). -/
theorem unowned_withdraw (h : s.OwnersOpen) (who : Port → Bool) (pick : ChanConfig → Action) :
    (∀ c q, who q → ((s.withdraw who pick).chan c).own ≠ .owned q) ∧
      ∀ k ∈ (s.withdraw who pick).claims, who k.port = false := by
  constructor
  · intro c q hq own
    rw [chan_withdraw] at own
    split at own
    · next e =>
      split at own
      · cases own
      · next other =>
        rw [own] at e
        cases e
        exact other hq
    all_goals simp_all
  · intro k hk
    rw [claims_withdraw h] at hk
    simpa using (List.mem_filter.1 hk).2

/-- A grant pass gives no channel to a session without a claim. -/
theorem unowned_grantPass (unowned : ∀ c, (s.chan c).own ≠ .owned p) (unclaimed : ∀ k ∈ s.claims, k.port ≠ p) :
    (∀ c, (s.grantPass.chan c).own ≠ .owned p) ∧ ∀ k ∈ s.grantPass.claims, k.port ≠ p := by
  refine ⟨fun c own => ?_, fun k hk => unclaimed k ((claims_grantPass_sublist s).subset hk)⟩
  rcases chan_grantPass_cases s c with ⟨k, hk, -, e, -⟩ | ⟨o, e, kept | ⟨free, -⟩⟩
  · rw [e, own_grant] at own
    cases own
    exact unclaimed k hk rfl
  · rw [e, kept] at own
    exact unowned c own
  · rw [e] at own
    rcases free with rfl | rfl <;> cases own

theorem arbitrated_clearSession (unowned : ∀ c, (s.chan c).own ≠ .owned p) (unclaimed : ∀ k ∈ s.claims, k.port ≠ p)
    (h : s.Arbitrated) : (s.clearSession p).Arbitrated :=
  have same := sameBut_clearSession s p
  arbitrated_session (same .chans (by simp)) (same .claims (by simp)) (same .arrivals (by simp))
    (fun q n => by rw [session_clearSession, if_neg n.symm]) unowned unclaimed h

theorem arbitrated_close (h : s.Arbitrated) :
    (((s.withdraw (fun q => q = p) ChanConfig.releaseAction).grantPass).clearSession p).Arbitrated := by
  obtain ⟨unowned, unclaimed⟩ := unowned_withdraw h.owners (fun q => decide (q = p)) ChanConfig.releaseAction
  have left := unowned_grantPass (p := p) (fun c => unowned c p (by simp)) fun k hk => by simpa using unclaimed k hk
  have pass := arbitrated_grantPass (pooled_withdraw h.pooled (fun q => decide (q = p)) ChanConfig.releaseAction)
  exact arbitrated_clearSession left.1 left.2 pass

theorem sameBut_take (set : ChanSet) : SameBut [.chans, .queues] s ((s.revoke p set).grant p set) :=
  SameBut.trans (sameBut_revoke s p set) ((sameBut_grant _ p set).weaken (by simp))

/-- The set of a CLAIM becomes the session's, and every other channel keeps its owner (R27, R34). -/
theorem own_take (set : ChanSet) (c : Channel) :
    (((s.revoke p set).grant p set).chan c).own = if inSet set c then .owned p else (s.chan c).own := by
  rw [chan_grant_revoke]
  split
  · split <;> simp
  · rfl

theorem owned_take {set : ChanSet} (opened : s.sessionOpen p) (h : s.OwnersOpen) {c : Channel} {q : Port}
    (own : (((s.revoke p set).grant p set).chan c).own = .owned q) : s.sessionOpen q := by
  rw [own_take] at own
  split at own
  · cases own
    exact opened
  · exact h.1 c q own

theorem ownersOpen_take {set : ChanSet} (opened : s.sessionOpen p) (h : s.OwnersOpen) :
    ((s.revoke p set).grant p set).OwnersOpen :=
  have same := sameBut_take (s := s) (p := p) set
  ownersOpen_of (.of_sessions (same .sessions (by simp))) (fun _ _ => owned_take opened h)
    (fun k hk => ⟨k, by rwa [same .claims (by simp)] at hk, rfl, rfl⟩) h

theorem pooled_take {set : ChanSet} (opened : s.sessionOpen p) (clear : s.ClearOfClaims p set) (h : s.Pooled) :
    ((s.revoke p set).grant p set).Pooled := by
  have same := sameBut_take (s := s) (p := p) set
  have claims : ((s.revoke p set).grant p set).claims = s.claims := same .claims (by simp)
  refine pooled_sublist (by rw [claims]) (same .arrivals (by simp))
    (.of_sessions (same .sessions (by simp))) (fun c q e => owned_take opened h.owners e) (fun k hk c hc e => ?_) h
  rw [claims] at hk
  rw [own_take] at e
  split at e
  · next named =>
    have port : p = k.port := by simpa using e
    have ours : s.ownsClaim p k := by simp [State.ownsClaim, port, (h.owners.2 k hk).2]
    simp [clear k hk ours c named] at hc
  · exact (h.disjoint.2.2 k hk).2.2 c hc e

theorem mem_insertClaim_iff {k x : Claim} {l : List Claim} : x ∈ insertClaim k l ↔ x = k ∨ x ∈ l := by
  induction l with
  | nil => simp [insertClaim]
  | cons y l ih =>
    unfold insertClaim
    split
    · simp only [List.mem_cons, ih]
      tauto
    · simp

theorem perm_insertClaim (k : Claim) (l : List Claim) : (insertClaim k l).Perm (k :: l) := by
  induction l with
  | nil => exact .refl _
  | cons y l ih =>
    unfold insertClaim
    split
    · exact (ih.cons y).trans (.swap k y l)
    · exact .refl _

/-- A claim that arrives last joins behind every claim of equal priority (R23). -/
theorem ahead_insertClaim {k : Claim} {l : List Claim} (h : l.Pairwise Claim.Ahead)
    (last : ∀ x ∈ l, x.arrival < k.arrival) : (insertClaim k l).Pairwise Claim.Ahead := by
  obtain ⟨ahead, behind, rfl, e, higher, lower⟩ := insertClaim_split k h
  rw [e]
  obtain ⟨h₁, h₂, h₃⟩ := List.pairwise_append.1 h
  refine List.pairwise_append.2 ⟨h₁, List.pairwise_cons.2 ⟨fun x hx => .inl (lower x hx), h₂⟩, fun x hx y hy => ?_⟩
  rcases List.mem_cons.1 hy with rfl | hy
  · rcases Nat.lt_or_eq_of_le (higher x hx) with lt | eq
    · exact .inl lt
    · exact .inr ⟨eq.symm, last x (by simp [hx])⟩
  · exact h₃ x hx y hy

/-- What the checks of R31 say of the claim's record. -/
theorem claimPasses_of_claimCheck {a : ClaimOperands} (h : s.claimCheck p a = none) :
    s.ClaimPasses p a.tag a.set a.flags := by
  have clear := clearOfClaims_of_claimCheck h
  unfold State.claimCheck at h
  split at h
  · cases h
  · next good =>
    split at h
    · cases h
    · next apart =>
      split at h
      · cases h
      · next fresh =>
        obtain ⟨tagged, named, coded⟩ := by simpa only [not_or] using good
        exact ⟨tagged, named, by omega, fun c hc own => apart (overlaps_iff.2 (.inl ⟨c, hc, own⟩)), clear,
          fun k hk own e => fresh (any_claimsOf_tag.2 ⟨k, hk, own, e⟩)⟩

theorem ownersOpen_insertClaim {a : ClaimOperands} (opened : s.sessionOpen p) (h : s.OwnersOpen) :
    State.OwnersOpen { s with claims := insertClaim (s.newClaim p a) s.claims, arrivals := s.arrivals + 1 } := by
  refine ⟨h.1, fun k hk => ?_⟩
  rcases mem_insertClaim_iff.1 hk with rfl | hk
  · exact ⟨opened, rfl⟩
  · exact h.2 k hk

/-- A waiting claim joins the pool (R22, R23, R26). -/
theorem pooled_insertClaim {a : ClaimOperands} (opened : s.sessionOpen p) (passes : s.ClaimPasses p a.tag a.set a.flags)
    (room : s.claims.length < 8) (share : (s.claimsOf p).length < 4) (h : s.Pooled) :
    State.Pooled { s with claims := insertClaim (s.newClaim p a) s.claims, arrivals := s.arrivals + 1 } := by
  have perm := perm_insertClaim (s.newClaim p a) s.claims
  have ours : ∀ {k}, k ∈ s.claims → k.port = p → s.ownsClaim p k := by
    intro k hk e
    simp [State.ownsClaim, e, (h.owners.2 k hk).2]
  refine ⟨⟨?_, ahead_insertClaim h.order.2.1 h.order.2.2, fun k hk => ?_⟩, ownersOpen_insertClaim opened h.owners,
    fun q => ?_, ?_, fun k hk => ?_⟩
  · rw [perm.length_eq]
    exact room
  · rcases mem_insertClaim_iff.1 hk with rfl | hk
    · exact Nat.lt_succ_self _
    · exact Nat.lt_succ_of_lt (h.order.2.2 k hk)
  · rw [(perm.filter _).length_eq]
    by_cases e : p = q
    · subst e
      have mine : (s.claims.filter fun k => decide (k.port = p)) = s.claimsOf p := by
        refine List.filter_congr fun k hk => ?_
        by_cases e : k.port = p
        · simp [ours hk e, e]
        · simp [State.ownsClaim, e]
      rw [List.filter_cons_of_pos (by simp [State.newClaim]), mine]
      exact share
    · rw [List.filter_cons_of_neg (by simp [State.newClaim, e])]
      exact h.disjoint.1 q
  · refine (perm.pairwise_iff ?_).2 (List.pairwise_cons.2 ⟨fun k hk e => ?_, h.disjoint.2.1⟩)
    · intro x y hxy e
      refine ⟨(hxy e.symm).1.symm, fun c hy => ?_⟩
      by_contra hx
      simp [(hxy e.symm).2 c (by simpa using hx)] at hy
    · exact ⟨(passes.fresh k hk (ours hk e.symm)).symm, passes.disjoint k hk (ours hk e.symm)⟩
  · rcases mem_insertClaim_iff.1 hk with rfl | hk
    · exact ⟨passes.tagged, passes.named, passes.notOwned⟩
    · exact h.disjoint.2.2 k hk

/-! ### The timer-unit event and the lapse -/

theorem sessionsAlike_countLease {e r : Port → Bool} (h : ∀ q, t.session q = (s.session q).countLease (e q) (r q)) :
    SessionsAlike s t := by
  intro q
  rw [State.sessionOpen, h q]
  unfold Session.countLease
  split <;> exact ⟨rfl, rfl⟩

theorem sessionsAlike_countLeases : SessionsAlike s s.countLeases :=
  sessionsAlike_countLease (session_countLeases s)

theorem ownersOpen_countWaits (h : s.OwnersOpen) (own : ∀ c, (t.chan c).own = (s.chan c).own)
    (claims : t.claims = s.claims.map Claim.countWait) (sessions : SessionsAlike s t) : t.OwnersOpen := by
  refine ownersOpen_of sessions (fun c p e => h.1 c p ((own c).symm.trans e)) (fun k hk => ?_) h
  rw [claims] at hk
  obtain ⟨x, hx, rfl⟩ := List.mem_map.1 hk
  exact ⟨x, hx, rfl, rfl⟩

theorem arbitrated_countWaits (h : s.Arbitrated) (own : ∀ c, (t.chan c).own = (s.chan c).own)
    (claims : t.claims = s.claims.map Claim.countWait) (arrivals : t.arrivals = s.arrivals)
    (sessions : SessionsAlike s t) : t.Arbitrated where
  order := by
    refine ⟨by simpa [claims] using h.order.1, ?_, fun k hk => ?_⟩
    · rw [claims, List.pairwise_map]
      exact h.order.2.1
    · rw [claims] at hk
      obtain ⟨x, hx, rfl⟩ := List.mem_map.1 hk
      rw [arrivals]
      exact h.order.2.2 x hx
  owners := ownersOpen_countWaits h.owners own claims sessions
  reserved := by
    have head : ∀ c, t.reservedByHead c = s.reservedByHead c := fun c => by
      unfold State.reservedByHead
      rw [claims]
      cases s.claims <;> rfl
    simpa only [State.ReservedForHead, State.wantedByHead, head, Chan.owner, own] using h.reserved
  disjoint := by
    refine ⟨fun p => ?_, ?_, fun k hk => ?_⟩
    · rw [claims, List.filter_map, List.length_map]
      exact h.disjoint.1 p
    · rw [claims, List.pairwise_map]
      exact h.disjoint.2.1
    · rw [claims] at hk
      obtain ⟨x, hx, rfl⟩ := List.mem_map.1 hk
      simp only [own]
      exact h.disjoint.2.2 x hx

theorem own_countUnit (c : Channel) : (s.countUnit.chan c).own = (s.chan c).own := by
  rw [(countUnit_spec s).1, own_countTimer]

theorem sessionsAlike_countUnit : SessionsAlike s s.countUnit := by
  obtain ⟨-, -, -, -, sessions, -, -, -⟩ := countUnit_spec s
  split at sessions
  · exact fun q => by simp only [State.sessionOpen, sessions q, and_self]
  · exact sessionsAlike_countLease sessions

theorem ownersOpen_countUnit (h : s.OwnersOpen) : s.countUnit.OwnersOpen := by
  obtain ⟨-, -, claims, -, -, -, -, -⟩ := countUnit_spec s
  split at claims
  · exact ownersOpen_congr own_countUnit claims sessionsAlike_countUnit h
  · exact ownersOpen_countWaits h own_countUnit claims sessionsAlike_countUnit

theorem arbitrated_countUnit (h : s.Arbitrated) : s.countUnit.Arbitrated := by
  obtain ⟨-, -, claims, -, -, -, -, same⟩ := countUnit_spec s
  split at claims
  · exact arbitrated_congr own_countUnit claims (same .arrivals (by simp)) sessionsAlike_countUnit h
  · exact arbitrated_countWaits h own_countUnit claims (same .arrivals (by simp)) sessionsAlike_countUnit

/-- The sessions of a lapse withdrawn and LAPSED, before its grant pass (R68, R48). -/
def State.lapseWithdrawn (s : State) : State :=
  (s.withdraw (fun p => (s.session p).lapseDue) ChanConfig.lapseAction).mapSessions fun _ x =>
    if x.lapseDue then { x with state := .lapsed } else x

/-- What a lapse does: nothing when it is not due, and LEASE_LAPSED follows the grant pass (R68). -/
theorem lapseSessions_cases (s : State) :
    (s.lapseSessions = s ∧ ∀ p, (s.session p).lapseDue = false) ∨
      SameBut [.queues] s.lapseWithdrawn.grantPass s.lapseSessions := by
  unfold State.lapseSessions
  split
  · exact .inr (noteLapse_foldl _ (List.Nodup.filter _ (by decide))).1
  · next none => exact .inl ⟨rfl, fun p => by simpa using mt (fun due =>
      List.any_eq_true.2 ⟨p, mem_allPorts p, due⟩) none⟩

theorem sameBut_mapSessions (s : State) (f : Port → Session → Session) : SameBut [.sessions] s (s.mapSessions f) := by
  intro y hy
  cases y <;> simp [Part.Same] at hy ⊢

/-- After the withdrawal only sessions change. -/
theorem sameBut_withdraw_lapseWithdrawn :
    SameBut [.sessions] (s.withdraw (fun p => (s.session p).lapseDue) ChanConfig.lapseAction) s.lapseWithdrawn :=
  sameBut_mapSessions _ _

theorem session_lapseWithdrawn (q : Port) :
    s.lapseWithdrawn.session q =
      if (s.session q).lapseDue then { s.session q with state := .lapsed } else s.session q := by
  rw [State.lapseWithdrawn, session_mapSessions,
    (sameBut_withdraw s (fun p => (s.session p).lapseDue) ChanConfig.lapseAction).session (by simp)]

theorem sameBut_lapseWithdrawn : SameBut [.chans, .claims, .cal, .sessions] s s.lapseWithdrawn :=
  SameBut.trans ((sameBut_withdraw s (fun p => (s.session p).lapseDue) ChanConfig.lapseAction).weaken (by simp))
    (sameBut_withdraw_lapseWithdrawn.weaken (by simp))

theorem ownersOpen_lapseWithdrawn (h : s.OwnersOpen) : s.lapseWithdrawn.OwnersOpen := by
  obtain ⟨unowned, unclaimed⟩ := unowned_withdraw h (fun q => (s.session q).lapseDue) ChanConfig.lapseAction
  have same := sameBut_withdraw s (fun q => (s.session q).lapseDue) ChanConfig.lapseAction
  have only := sameBut_withdraw_lapseWithdrawn (s := s)
  refine ownersOpen_session (who := fun q => (s.session q).lapseDue) (fun c => by rw [only.chan (by simp)])
    (only .claims (by simp)) (fun q stays => ?_) unowned unclaimed (ownersOpen_withdraw h _ _)
  rw [session_lapseWithdrawn, if_neg (by simp [stays]), same.session (by simp)]

theorem arbitrated_lapseSessions (h : s.Arbitrated) : s.lapseSessions.Arbitrated := by
  rcases lapseSessions_cases s with ⟨none, -⟩ | same
  · rw [none]
    exact h
  · have pooled := pooled_withdraw h.pooled (fun q => (s.session q).lapseDue) ChanConfig.lapseAction
    have only := sameBut_withdraw_lapseWithdrawn (s := s)
    generalize s.withdraw (fun q => (s.session q).lapseDue) ChanConfig.lapseAction = u at pooled only
    have claims : s.lapseWithdrawn.claims = u.claims := only .claims (by simp)
    have arrivals : s.lapseWithdrawn.arrivals = u.arrivals := only .arrivals (by simp)
    refine arbitrated_sameBut same (by simp) (arbitrated_grantPass ⟨?_, ownersOpen_lapseWithdrawn h.owners, ?_⟩)
    · simpa only [State.ListOrdered, claims, arrivals] using pooled.order
    · simpa only [State.ClaimsDisjoint, claims, only.chan (show Part.chans ∉ _ by simp)] using pooled.disjoint

end Blocks

/-! ## Every move -/

theorem chan_commitDone (s : State) (x : CalContext) (c : Channel) :
    (s.commitDone x).chan c =
      if x.channel = c then
        { (s.chan c).force (s.bankOk c) (s.chan c).config.idleAction with calDefault := decide (x.record = .default) }
      else s.chan c := by
  have done : ∀ e, (((s.modCell x.channel x.range fun k => k.commit x.channel x.range x.record).modChan x.channel
      fun r => { r with calDefault := decide (x.record = .default) }).closeCal x.channel).chan e =
      (s.commitDone x).chan e := fun e => (chan_complete _ _ _ _ _ e).symm
  rw [← done, chan_closeCal, chan_modChan, chan_modChan]
  by_cases e : x.channel = c
  · subst e
    simp only [if_true]
    exact force_calDefault _ _ _ _
  · simp only [if_neg e]
    rfl

theorem chan_commitFailed (s : State) (x : CalContext) (c : Channel) :
    (s.commitFailed x).chan c =
      if x.channel = c ∧ (s.chan c).drive ≠ .calibrating then
        (s.chan c).force (s.bankOk c) (s.chan c).config.idleAction
      else s.chan c := by
  unfold State.commitFailed
  dsimp only
  split
  · next calibrating =>
    rw [if_neg]
    · rfl
    · rintro ⟨rfl, moved⟩
      exact moved calibrating
  · next moved =>
    rw [chan_complete, chan_notify, chan_closeCal]
    by_cases e : x.channel = c
    · subst e
      rw [if_pos rfl, if_pos ⟨rfl, moved⟩]
      rfl
    · rw [if_neg e, if_neg fun both => e both.1]
      rfl

theorem sameBut_commitFailed (s : State) (x : CalContext) :
    SameBut [.cal, .store, .chans, .queues, .ports] s (s.commitFailed x) := by
  unfold State.commitFailed
  dsimp only
  split
  · intro y hy
    cases y <;> simp at hy <;> rfl
  · refine SameBut.trans (SameBut.trans ?_ ((sameBut_notify _ _ _).weaken (by simp)))
      (sameBut_complete.weaken (by simp))
    intro y hy
    cases y <;> simp at hy <;> rfl

section Moves

variable {s t : State}

/-- Every move keeps the arbiter consistent. -/
theorem Move.keeps_arbitrated (m : Move s t) (h : s.Arbitrated) : t.Arbitrated := by
  cases m with
  | port p k _ => exact arbitrated_sameBut (sameBut_modPort k) (by simp) h
  | inert same _ _ => exact arbitrated_sameBut (Moves.sameBut_inert same) (by simp) h
  | notify p b => exact arbitrated_sameBut (sameBut_notify s p b) (by simp) h
  | monitor field loop =>
    exact arbitrated_own (sameBut_monitor s field loop) (by simp) (fun c => by rw [chan_monitor, own_sample]) h
  | flags n => exact arbitrated_mapChans (fun c r => own_flagsTaken r n c) h
  | engine => exact arbitrated_mapChans (fun c r => own_tick r _) h
  | loseField b =>
    refine arbitrated_own (sameBut_fieldLost s b) (by simp) (fun c => ?_) h
    rw [chan_fieldLost]
    split <;> rfl
  | restoreField b _ =>
    refine arbitrated_own (sameBut_fieldRestored s b) (by simp) (fun c => ?_) h
    rw [chan_fieldRestored]
    split <;> simp
  | countUnit => exact arbitrated_countUnit h
  | expire n =>
    refine arbitrated_mapChans (fun c r => ?_) h
    split
    · exact own_expire r
    · rfl
  | countWaits =>
    exact arbitrated_countWaits h (fun c => by rw [(sameBut_countWaits s).chan (by simp)]) rfl rfl (.of_sessions rfl)
  | dropClaims keep l =>
    refine arbitrated_grantPass (pooled_freed (fun c => .inr ?_) ?_ ?_ ?_ h.pooled)
    · rw [chan_notifyAll]
      rfl
    · rw [claims_notifyAll]
      exact List.filter_sublist
    · rw [arrivals_notifyAll]
    · exact .of_sessions (by rw [sessions_notifyAll])
  | lapse =>
    have same := sameBut_countLeases s
    exact arbitrated_lapseSessions (arbitrated_congr (fun c => by rw [same.chan (by simp)]) (same .claims (by simp))
      (same .arrivals (by simp)) sessionsAlike_countLeases h)
  | openAs p priority lease closed _ =>
    have same := sameBut_openAs s p priority lease
    obtain ⟨unowned, unclaimed⟩ := unowned_of_not_open h.owners closed
    exact arbitrated_session (same .chans (by simp)) (same .claims (by simp)) (same .arrivals (by simp))
      (fun q n => by rw [session_openAs, if_neg n.symm]) unowned unclaimed h
  | close p _ _ => exact arbitrated_close h
  | clear p closed =>
    obtain ⟨unowned, unclaimed⟩ := unowned_of_not_open h.owners closed
    exact arbitrated_clearSession unowned unclaimed h
  | refresh p _ =>
    have same := sameBut_refreshLease s p
    refine arbitrated_congr (fun c => by rw [same.chan (by simp)]) (same .claims (by simp)) (same .arrivals (by simp))
      (fun q => ?_) h
    rw [State.sessionOpen, session_refreshLease]
    split
    · next e => subst e; exact ⟨rfl, rfl⟩
    · exact ⟨rfl, rfl⟩
  | goRun p idle _ =>
    have same := sameBut_goRun s p
    refine arbitrated_congr (fun c => ?_) (same .claims (by simp)) (same .arrivals (by simp)) (fun q => ?_) h
    · rw [chan_goRun]
      split <;> simp
    · rw [State.sessionOpen, session_goRun]
      split
      · next e => subst e; simp [State.sessionOpen, Session.isOpen, idle]
      · exact ⟨rfl, rfl⟩
  | goIdle p run =>
    have same := sameBut_goIdle s p
    refine arbitrated_congr (fun c => ?_) (same .claims (by simp)) (same .arrivals (by simp)) (fun q => ?_) h
    · rw [chan_goIdle]
      split <;> simp
    · rw [State.sessionOpen, session_goIdle]
      split
      · next e => subst e; simp [State.sessionOpen, Session.isOpen, run]
      · exact ⟨rfl, rfl⟩
  | take p set opened clear _ => exact arbitrated_grantPass (pooled_take opened clear h.pooled)
  | queueClaim p a opened passes room share =>
    exact arbitrated_grantPass (pooled_insertClaim opened (claimPasses_of_claimCheck passes) room share h.pooled)
  | release p set _ _ =>
    have same : SameBut [.chans] s (s.freeSet set) := sameBut_mapChans s _
    refine arbitrated_grantPass (pooled_freed (s := s) (fun c => ?_) (by rw [same .claims (by simp)])
      (same .arrivals (by simp)) (.of_sessions (same .sessions (by simp))) h.pooled)
    rw [State.freeSet, chan_mapChans]
    split
    · exact .inl rfl
    · exact .inr rfl
  | storeTargets l =>
    refine arbitrated_own (sameBut_storeTargets s l) (by simp) (fun c => ?_) h
    rw [chan_storeTargets]
    split <;> rfl
  | configure p c₀ k _ _ =>
    refine arbitrated_own (sameBut_configure s p c₀ k) (by simp) (fun c => ?_) h
    rw [chan_configure]
    split
    · next e =>
      subst e
      split
      · rfl
      · exact own_changeRange _ _ _ _ _
    · rfl
  | dropNotes p n _ =>
    refine arbitrated_sameBut (l := [.queues]) (fun y hy => ?_) (by simp) h
    cases y <;> simp [Part.Same] at hy ⊢
  | beginCal p b x _ =>
    refine arbitrated_own (sameBut_beginCal s x) (by simp) (fun c => ?_) h
    rw [chan_beginCal]
    split
    · next e => rw [← e]
    · rfl
  | setCal x phase computed _ _ _ _ =>
    refine arbitrated_own (sameBut_setCal s _) (by simp) (fun c => ?_) h
    rw [chan_setCal]
    split
    · next e => rw [← e]
    · rfl
  | measure x v point _ => exact ⟨h.order, h.owners, h.reserved, h.disjoint⟩
  | commit x seq _ _ => exact ⟨h.order, h.owners, h.reserved, h.disjoint⟩
  | abort x _ _ =>
    refine arbitrated_own (sameBut_closeCal s _) (by simp) (fun c => ?_) h
    rw [chan_closeCal]
    split
    · next e => rw [own_force, e]
    · rfl
  | commitDone x _ _ =>
    refine arbitrated_own (sameBut_commitDone s x) (by simp) (fun c => ?_) h
    rw [chan_commitDone]
    split
    · exact own_force _ _ _
    · rfl
  | commitFailed x _ _ =>
    refine arbitrated_own (sameBut_commitFailed s x) (by simp) (fun c => ?_) h
    rw [chan_commitFailed]
    split
    · exact own_force _ _ _
    · rfl

end Moves

/-- Nothing is owned, claimed or reserved after RESET. -/
theorem arbitrated_resetWith (store : Vector (Vector Cell 4) 16) (l : List Instr) :
    (State.resetWith store l).Arbitrated where
  order := by simp [State.ListOrdered]
  owners := by simp [State.OwnersOpen, Chan.reset]
  reserved := by simp [State.ReservedForHead, State.wantedByHead, State.reservedByHead, Chan.reset]
  disjoint := by simp [State.ClaimsDisjoint]

/-- Settles O57: RESET empties the list and frees every channel, and every other command is a chain of moves. -/
theorem arbiterStaysConsistent : Obligations.ArbiterStaysConsistent := by
  intro s t arbitrated next
  refine step_keeps (fun _ _ h => ⟨h.order, h.owners, h.reserved, h.disjoint⟩) ?_ (fun _ _ => Move.keeps_arbitrated)
    (fun _ _ _ _ h => ⟨h.order, h.owners, h.reserved, h.disjoint⟩) arbitrated next
  rintro s done t ⟨⟩
  exact arbitrated_resetWith _ _

end Sys2Proof.Machine

/-! # What a channel is like between events: its fields, its drive state, its owner's session (R9, R73, R75) -/

namespace Sys2Proof.Machine

/-! ## One channel -/

/-- The drive states of a channel with the owner, whose session is RUN or not (R9, R53, R103). -/
def drivesAllowed : Option Port → Bool → List Drive
  | some _, true => [.off, .holding, .ramping, .follow]
  | some _, false => [.off, .forced, .calibrating]
  | none, _ => [.off, .forced]

/-- What `State.Sound` says of one channel. `ok`: its bank is OK; `run`: its owner's session is RUN. -/
structure Chan.Fits (ok run : Bool) (r : Chan) : Prop where
  off : r.drive = .off ↔ r.config.range = .off ∨ ok = false
  fields : r.Agrees
  allowed : r.drive ∈ drivesAllowed r.owner run

theorem off_mem_drivesAllowed (o : Option Port) (run : Bool) : .off ∈ drivesAllowed o run := by
  cases o <;> cases run <;> simp [drivesAllowed]

theorem forced_mem_drivesAllowed {o : Option Port} {run : Bool} (h : o.isSome → run = false) :
    .forced ∈ drivesAllowed o run := by
  cases o <;> simp [drivesAllowed] at h ⊢
  simp [h]

theorem owner_congr {r t : Chan} (h : t.own = r.own) : t.owner = r.owner := by simp only [Chan.owner, h]

section Fits

variable {r t : Chan} {ok run was : Bool}

theorem fits_congr (h : r.Fits ok run) (own : t.own = r.own) (range : t.config.range = r.config.range)
    (drive : t.drive = r.drive) (fields : t.Agrees) : t.Fits ok run where
  off := by rw [drive, range]; exact h.off
  fields := fields
  allowed := by rw [drive, owner_congr own]; exact h.allowed

/-- An entry of the output engine: a channel that cannot drive stays OFF, any other takes the drive state of the entry.
-/
theorem fits_entry {d : Drive} (h : r.Fits ok was) (config : t.config = r.config) (fields : t.Agrees)
    (drive : t.drive = if r.config.range = .off ∨ ok = false then r.drive else d) (driven : d ≠ .off)
    (allowed : d ∈ drivesAllowed t.owner run) : t.Fits ok run := by
  by_cases stopped : r.config.range = .off ∨ ok = false
  · rw [if_pos stopped, h.off.2 stopped] at drive
    exact ⟨by simpa [drive, config] using stopped, fields, drive ▸ off_mem_drivesAllowed _ _⟩
  · rw [if_neg stopped] at drive
    exact ⟨by simpa [drive, driven, config] using stopped, fields, drive ▸ allowed⟩

theorem fits_force (h : r.Fits ok was) (stopped : r.owner.isSome → run = false) (a : Action) :
    (r.force ok a).Fits ok run :=
  fits_entry h (config_force r a ok) (agrees_force ok h.fields h.off.2 a) (drive_force ok) (by simp)
    (forced_mem_drivesAllowed (by rwa [owner_congr (own_force r a ok)]))

theorem fits_release (h : r.Fits ok was) (a : Action) : (r.release ok a).Fits ok run :=
  fits_entry h (config_release r a ok) (agrees_release ok h.fields h.off.2) (drive_release ok) (by simp)
    (forced_mem_drivesAllowed (by simp [Chan.owner]))

theorem fits_enter (h : r.Fits ok was) (owned : r.owner.isSome) : (Chan.enter run ok r).Fits ok run := by
  obtain ⟨p, e⟩ := Option.isSome_iff_exists.1 owned
  refine fits_entry h (config_enter r ok run) (agrees_enter ok run h.fields h.off.2) (drive_enter ok run) ?_ ?_
  · cases run <;> simp
  · rw [owner_congr (own_enter r ok run), e]
    cases run <;> simp [drivesAllowed]

theorem fits_grant (p : Port) (h : r.Fits ok was) (unowned : r.owner = none) : (r.grant p run ok).Fits ok run := by
  have idle : r.drive = .off ∨ r.drive = .forced := by simpa [unowned, drivesAllowed] using h.allowed
  refine fits_entry h (config_grant r ok run p) (agrees_grant ok run p h.fields idle h.off.2)
    (drive_grant ok run p) ?_ ?_
  · cases run <;> simp
  · rw [owner_eq_some.2 (own_grant r ok run p)]
    cases run <;> simp [drivesAllowed]

theorem fits_fieldLoss (h : r.Fits ok run) : r.fieldLoss.Fits false run where
  off := by simp [Chan.fieldLoss]
  fields := agrees_fieldLoss h.fields fun off => h.off.2 (.inl off)
  allowed := off_mem_drivesAllowed _ _

/-- A channel that was OFF with its bank fits the bank's restored field: the entry follows. -/
theorem agrees_restore (h : r.Fits false run) : (r.restore run).Agrees := by
  have off : r.config.range = .off ∨ true = false → r.drive = .off := fun _ => h.off.2 (.inr rfl)
  unfold Chan.restore
  split
  · exact agrees_enter true run h.fields off
  · split <;> exact agrees_force true h.fields off _

theorem drive_restore (h : r.Fits false run) :
    (r.restore run).drive =
      if r.config.range = .off then .off else if r.owner.isSome && run then .holding else .forced := by
  have off : r.drive = .off := h.off.2 (.inr rfl)
  unfold Chan.restore
  split
  · next e => simp [e, drive_enter, off]
  · next e => split <;> simp [e, drive_force, off]

theorem fits_restore (h : r.Fits false run) : (r.restore run).Fits true run := by
  have drive := drive_restore h
  by_cases ranged : r.config.range = .off
  · rw [if_pos ranged] at drive
    exact ⟨by simp [drive, config_restore, ranged], agrees_restore h, drive ▸ off_mem_drivesAllowed _ _⟩
  · rw [if_neg ranged] at drive
    refine ⟨?_, agrees_restore h, ?_⟩
    · rw [drive, config_restore]
      simp only [ranged, Bool.true_eq_false, or_self, iff_false]
      split <;> simp
    · rw [drive, owner_congr (own_restore r run)]
      cases r.owner <;> cases run <;> simp [drivesAllowed]

/-! ### The engine's step -/

/-- A channel that drives for its owner in RUN. -/
def Drive.moves (d : Drive) : Prop := d ∈ [Drive.holding, .ramping, .follow]

/-- A channel that drives for its owner in RUN may go from one of these states to another. -/
theorem fits_moved (h : r.Fits ok run) (before : r.drive.moves) (own : t.own = r.own) (config : t.config = r.config)
    (after : t.drive.moves) (fields : t.Agrees) : t.Fits ok run where
  off := by
    have driven : r.drive ≠ .off := fun e => by simp [e, Drive.moves] at before
    have drives : t.drive ≠ .off := fun e => by simp [e, Drive.moves] at after
    simpa [driven, drives, config] using h.off
  fields := fields
  allowed := by
    have allowed := h.allowed
    rw [owner_congr own]
    simp only [Drive.moves, List.mem_cons, List.not_mem_nil, or_false] at before after
    cases owner : r.owner <;> cases run
    case some.true => simpa [drivesAllowed] using .inr after
    all_goals
      rw [owner] at allowed
      simp only [drivesAllowed, List.mem_cons, List.not_mem_nil, or_false] at allowed
      rcases before with e | e | e <;> simp [e] at allowed

theorem agrees_arrive {v : Int} (idle : r.forced = none) (target : r.target.isSome) : (r.arrive v).Agrees :=
  show _ ∧ _ from ⟨rfl, idle, rfl, target⟩

theorem agrees_ramping (drive : r.drive = .ramping)
    (h : r.held = none ∧ r.forced = none ∧ r.timer = none ∧ r.target.isSome) : r.Agrees := by
  rw [Chan.Agrees, drive]
  exact h

/-- A ramp step of a channel that ramps (R80). -/
theorem ramp_cases (r : Chan) (v : Int) :
    r.ramp v = r.arrive v ∨ r.ramp v = { r with applied := moveToward r.config.rampStep r.applied v } := by
  unfold Chan.ramp
  split
  · exact .inl rfl
  · exact .inr rfl

theorem moves_ramp (v : Int) (h : r.drive = .ramping) : (r.ramp v).drive.moves := by
  rcases ramp_cases r v with e | e <;> rw [e] <;> simp [Chan.arrive, Drive.moves, h]

theorem agrees_ramp (v : Int) (drive : r.drive = .ramping) (h : r.Agrees) : (r.ramp v).Agrees := by
  rw [Chan.Agrees, drive] at h
  rcases ramp_cases r v with e | e <;> rw [e]
  · exact agrees_arrive h.2.1 h.2.2.2
  · exact agrees_ramping drive h

/-- A channel that leaves HOLDING for a ramp (R79, R85). -/
theorem agrees_startRamp (drive : r.drive = .holding) (target : r.target.isSome)
    (h : r.Agrees) : r.startRamp.Agrees := by
  rw [Chan.Agrees, drive] at h
  exact agrees_ramping rfl ⟨rfl, h.2, rfl, target⟩

theorem fits_tick (h : r.Fits ok run) (v : Option Int) : (r.tick v).Fits ok run := by
  have fields := h.fields
  unfold Chan.tick
  split
  case h_4 d t drive target =>
    have some : r.target.isSome := by simp [target]
    have moves : r.drive.moves := by simp [drive, Drive.moves]
    have idle : r.forced = none := by
      rw [Chan.Agrees, drive] at fields
      exact fields.2
    have arrives : (r.arrive t).Fits ok run :=
      fits_moved h moves rfl rfl (by simp [Drive.moves, Chan.arrive]) (agrees_arrive idle some)
    split
    · exact arrives
    · split
      · exact arrives
      · exact h
    · exact fits_moved h moves (own_ramp _ _) (config_ramp _ _) (moves_ramp t rfl)
        (agrees_ramp t rfl (agrees_startRamp drive some fields))
  case h_5 d t drive target =>
    exact fits_moved h (by simp [drive, Drive.moves]) (own_ramp _ _) (config_ramp _ _) (moves_ramp t drive)
      (agrees_ramp t drive fields)
  case h_7 d t drive target =>
    have moves : r.drive.moves := by simp [drive, Drive.moves]
    split <;> refine fits_moved h moves rfl rfl moves ?_ <;> simpa [Chan.Agrees, drive] using fields
  case h_9 d t drive =>
    refine fits_congr h rfl rfl rfl ?_
    simpa [Chan.Agrees, drive] using fields
  all_goals exact h

/-! ### The other events -/

theorem fits_expire (h : r.Fits ok run) (due : r.timerDue) : r.expire.Fits ok run := by
  have drive : r.drive = .holding := by simpa using (Bool.and_eq_true_iff.1 due).1
  have fields := h.fields
  have moves : r.drive.moves := by simp [drive, Drive.moves]
  unfold Chan.expire
  split
  · next target _ =>
    exact fits_moved h moves rfl rfl (by simp [Drive.moves, Chan.startRamp])
      (agrees_startRamp drive (by simp [target]) fields)
  all_goals
    refine fits_congr h rfl rfl rfl ?_
    simpa [Chan.Agrees, drive] using fields

theorem fits_countTimer (h : r.Fits ok run) : r.countTimer.Fits ok run := by
  unfold Chan.countTimer
  split
  · next drive =>
    refine fits_congr h rfl rfl rfl ?_
    simpa [Chan.Agrees, drive] using h.fields
  · exact h

theorem fits_sample (h : r.Fits ok run) (high : Bool) (loop : Int) : (r.sample high loop).Fits ok run := by
  unfold Chan.sample
  split
  · exact h
  · exact fits_congr h rfl rfl rfl (agrees_congr h.fields rfl rfl rfl rfl rfl rfl id)

theorem fits_flagsTaken (h : r.Fits ok run) (n : Nat) (c : Channel) : (r.flagsTaken n c).Fits ok run := by
  have load : ∀ x : Chan, x.Fits ok run → x.flipOpenLoad.Fits ok run := fun x hx =>
    fits_congr hx rfl rfl rfl (agrees_congr hx.fields rfl rfl rfl rfl rfl rfl id)
  have deviation : ∀ x : Chan, x.Fits ok run → x.flipDeviation.Fits ok run := fun x hx =>
    fits_congr hx rfl rfl rfl (agrees_congr hx.fields rfl rfl rfl rfl rfl rfl id)
  unfold Chan.flagsTaken
  dsimp only
  split <;> split
  · exact deviation _ (load _ h)
  · exact load _ h
  · exact deviation _ h
  · exact h

theorem agrees_target (h : r.Agrees) (v : Int) : ({ r with target := some v } : Chan).Agrees := by
  cases drive : r.drive <;> simp only [Chan.Agrees, drive] at h ⊢
  case ramping | follow => exact ⟨h.1, h.2.1, h.2.2.1, rfl⟩
  all_goals exact h

theorem fits_target (h : r.Fits ok run) (v : Int) : ({ r with target := some v } : Chan).Fits ok run :=
  fits_congr h rfl rfl rfl (agrees_target h.fields v)

theorem fits_config {k : ChanConfig} (h : r.Fits ok run) (range : k.range = r.config.range) :
    ({ r with config := k } : Chan).Fits ok run :=
  fits_congr h rfl range rfl (agrees_congr h.fields rfl rfl rfl rfl rfl rfl fun off => range ▸ off)

theorem agrees_rangeCleared (k : ChanConfig) (d : Bool) : (r.rangeCleared k d).Agrees :=
  show _ ∧ _ from ⟨rfl, rfl, rfl, fun _ e => (by cases e), fun _ => rfl⟩

theorem fits_changeRange {k : ChanConfig} {d : Bool} (owned : r.owner.isSome) :
    (r.changeRange k d run ok).Fits ok run := by
  have cleared : (r.rangeCleared k d).Fits false run :=
    ⟨by simp [Chan.rangeCleared], agrees_rangeCleared k d, off_mem_drivesAllowed _ _⟩
  obtain ⟨p, owner⟩ := Option.isSome_iff_exists.1 owned
  unfold Chan.changeRange
  split
  · next drives =>
    obtain ⟨-, rfl⟩ := drives
    have restored := fits_restore cleared
    rwa [Chan.restore, show (r.rangeCleared k d).owner = some p from owner] at restored
  · next stays =>
    refine ⟨?_, agrees_rangeCleared k d, off_mem_drivesAllowed _ _⟩
    simp only [Chan.rangeCleared, true_iff]
    by_contra drives
    exact stays (by simpa using drives)

end Fits

end Sys2Proof.Machine

/-! # The drive stays sound (R9, R53, R73, R75, R139, R148) -/

namespace Sys2Proof.Machine

/-! ## The parts of the invariant -/

/-- Every channel fits its bank and its owner's session. -/
def State.Fitted (s : State) : Prop := ∀ c, (s.chan c).Fits (s.bankOk c) (s.ownerRunning (s.chan c))

/-- What the invariant says of the calibration context (R139, R148). -/
structure State.Engaged (s : State) : Prop where
  named : s.CalibratingNamed
  context : s.ContextAgrees
  executing : s.ExecutingCommits

section Parts

variable {s t : State}

theorem drive_allowed_iff (s : State) (c : Channel) :
    (s.chan c).drive ∈ drivesAllowed (s.chan c).owner (s.ownerRunning (s.chan c)) ↔
      match (s.chan c).owner with
      | some p =>
        if s.running p then (s.chan c).drive ∈ [Drive.off, .holding, .ramping, .follow]
        else (s.chan c).drive ∈ [Drive.off, .forced, .calibrating]
      | none => (s.chan c).drive ∈ [Drive.off, .forced] := by
  unfold State.ownerRunning
  cases (s.chan c).owner with
  | none => rfl
  | some p => cases running : s.running p <;> simp [running, drivesAllowed]

theorem State.Sound.fitted (h : s.Sound) : s.Fitted := fun c =>
  ⟨h.off c, h.fields c, (drive_allowed_iff s c).2 (h.drive c)⟩

theorem State.Sound.engaged (h : s.Sound) : s.Engaged := ⟨h.named, h.context, h.executing⟩

theorem sound_of_parts (owners : s.OwnersOpen) (fitted : s.Fitted) (engaged : s.Engaged) (leases : s.LeasesRunning)
    (renewals : s.RenewalsWait) : s.Sound where
  owners := owners
  off c := (fitted c).off
  fields c := (fitted c).fields
  drive c := (drive_allowed_iff s c).1 (fitted c).allowed
  named := engaged.named
  context := engaged.context
  executing := engaged.executing
  leases := leases
  renewals := renewals

theorem leasesRunning_congr (sessions : ∀ p, t.session p = s.session p) (h : s.LeasesRunning) : t.LeasesRunning := by
  intro p opened
  rw [State.sessionOpen, sessions] at opened
  rw [sessions]
  exact h p opened

theorem renewalsWait_congr {l : List Part} (same : SameBut l s t)
    (n : Part.timebase ∉ l ∧ Part.leasesDue ∉ l ∧ Part.renewed ∉ l) (h : s.RenewalsWait) : t.RenewalsWait := by
  intro p renewed
  have timebase : t.timebase = s.timebase := same .timebase n.1
  have leasesDue : t.leasesDue = s.leasesDue := same .leasesDue n.2.1
  rw [show t.renewed = s.renewed from same .renewed n.2.2] at renewed
  rw [State.unitDue, timebase, leasesDue]
  exact h p renewed

/-- What leaves the sessions and the timebase alone leaves the leases and their renewals alone. -/
theorem State.Sound.of_parts {l : List Part} (h : s.Sound) (same : SameBut l s t)
    (n : Part.sessions ∉ l ∧ Part.timebase ∉ l ∧ Part.leasesDue ∉ l ∧ Part.renewed ∉ l) (owners : t.OwnersOpen)
    (fitted : t.Fitted) (engaged : t.Engaged) : t.Sound :=
  sound_of_parts owners fitted engaged (leasesRunning_congr (same.session n.1) h.leases)
    (renewalsWait_congr same n.2 h.renewals)

/-! ### The channels -/

theorem ownerRunning_congr {r x : Chan} (own : x.own = r.own) (running : ∀ p, t.running p = s.running p) :
    t.ownerRunning x = s.ownerRunning r := by
  unfold State.ownerRunning
  rw [owner_congr own]
  split
  · exact running _
  · rfl

theorem ownerRunning_of_owned {r : Chan} {p : Port} (own : r.own = .owned p) : s.ownerRunning r = s.running p := by
  rw [State.ownerRunning, owner_eq_some.2 own]

/-- Channels that change while the sessions keep running and the banks keep their field. -/
theorem State.Fitted.of_chans (h : s.Fitted) (bank : ∀ c, t.bankOk c = s.bankOk c)
    (running : ∀ p, t.running p = s.running p)
    (fits : ∀ c, (s.chan c).Fits (s.bankOk c) (s.ownerRunning (s.chan c)) →
      (t.chan c).Fits (s.bankOk c) (s.ownerRunning (t.chan c))) : t.Fitted := by
  intro c
  rw [bank, ownerRunning_congr (s := s) rfl running]
  exact fits c (h c)

theorem State.Fitted.sameBut {l : List Part} (h : s.Fitted) (same : SameBut l s t)
    (n : Part.chans ∉ l ∧ Part.sessions ∉ l ∧ Part.banks ∉ l) : t.Fitted :=
  h.of_chans (same.bankOk n.2.2) (same.running n.2.1) fun c hc => by rwa [same.chan n.1]

/-- Sessions without a channel may change in any way. -/
theorem State.Fitted.of_sessions {l : List Part} {who : Port → Bool} (h : s.Fitted) (same : SameBut l s t)
    (n : Part.chans ∉ l ∧ Part.banks ∉ l) (others : ∀ q, who q = false → t.session q = s.session q)
    (unowned : ∀ c q, who q → (s.chan c).own ≠ .owned q) : t.Fitted := by
  intro c
  have running : t.ownerRunning (s.chan c) = s.ownerRunning (s.chan c) := by
    unfold State.ownerRunning
    cases owner : (s.chan c).owner with
    | none => rfl
    | some q =>
      have stays : who q = false := by
        by_contra changes
        exact unowned c q (by simpa using changes) (owner_eq_some.1 owner)
      simp only [State.running, others q stays]
  rw [same.bankOk n.2, same.chan n.1, running]
  exact h c

theorem State.Fitted.grantPass (h : s.Fitted) : s.grantPass.Fitted := by
  refine h.of_chans (bankOk_grantPass s) (running_grantPass s) fun c hc => ?_
  rcases chan_grantPass_cases s c with ⟨k, -, -, e, free⟩ | ⟨o, e, same⟩
  · rw [e, ownerRunning_of_owned (own_grant _ _ _ _)]
    exact fits_grant k.port hc (owner_eq_none.2 free)
  · rw [e]
    rcases same with rfl | ⟨free, was⟩
    · exact hc
    · have allowed := hc.allowed
      rw [owner_eq_none.2 was] at allowed
      refine ⟨hc.off, agrees_congr hc.fields rfl rfl rfl rfl rfl rfl id, ?_⟩
      rw [show Chan.owner { s.chan c with own := o } = none from owner_eq_none.2 free]
      exact allowed

/-! ### The calibration context -/

/-- A channel that the context names stays as the context requires it, in the phase `x`. -/
structure Chan.StaysNamed (phase : CalPhase) (r t : Chan) : Prop where
  own : t.own = r.own
  range : t.config.range = r.config.range
  calibrating : phase ≠ .committing → r.drive = .calibrating → t.drive = .calibrating

theorem Chan.StaysNamed.refl (phase : CalPhase) (r : Chan) : Chan.StaysNamed phase r r := ⟨rfl, rfl, fun _ e => e⟩

theorem calNames_of_cal {x : CalContext} (h : s.cal = some x) : s.calNames x.channel := by simp [State.calNames, h]

theorem calNames_iff {c : Channel} : s.calNames c ↔ ∃ x, s.cal = some x ∧ x.channel = c := by
  unfold State.calNames
  cases s.cal <;> simp

/-- The context, its channel and its session stay as they are, and no other channel begins to calibrate. -/
theorem State.Engaged.of_named (h : s.Engaged) (cal : t.cal = s.cal)
    (named : ∀ x, s.cal = some x → (s.chan x.channel).StaysNamed x.phase (t.chan x.channel))
    (others : ∀ c, (t.chan c).drive = .calibrating → (s.chan c).drive = .calibrating)
    (session : ∀ x, s.cal = some x → (s.session x.port).state = .idle →
      (t.session x.port).state = .idle ∧ (t.session x.port).epoch = (s.session x.port).epoch)
    (executing : ∀ p, (t.port p).isExecuting = (s.port p).isExecuting) : t.Engaged where
  named c drive := by
    rw [State.calNames, cal]
    exact h.named c (others c drive)
  context x hx := by
    rw [cal] at hx
    obtain ⟨own, range, state, epoch, drive, formed, busy⟩ := h.context x hx
    obtain ⟨idle, same⟩ := session x hx state
    have stays := named x hx
    exact ⟨stays.own.trans own, stays.range.trans range, idle, same.trans epoch,
      fun working => stays.calibrating working (drive working), formed, by rw [executing]; exact busy⟩
  executing p busy := by
    rw [executing] at busy
    rw [cal]
    exact h.executing p busy

/-- Every channel stays where it is, for the context. -/
structure Chan.Kept (r t : Chan) : Prop where
  own : t.own = r.own
  range : t.config.range = r.config.range
  calibrating : t.drive = .calibrating ↔ r.drive = .calibrating

theorem Chan.Kept.refl (r : Chan) : r.Kept r := ⟨rfl, rfl, Iff.rfl⟩

theorem State.Engaged.of_kept {l : List Part} (h : s.Engaged) (same : SameBut l s t)
    (n : Part.cal ∉ l ∧ Part.ports ∉ l) (kept : ∀ c, (s.chan c).Kept (t.chan c))
    (session : ∀ p, (t.session p).state = (s.session p).state ∧
      (t.session p).epoch = (s.session p).epoch) : t.Engaged :=
  h.of_named (same .cal n.1) (fun x _ => ⟨(kept _).own, (kept _).range, fun _ => (kept _).calibrating.2⟩)
    (fun c => (kept c).calibrating.1) (fun x _ idle => ⟨(session _).1.trans idle, (session _).2⟩)
    (fun p => by rw [same.port n.2])

theorem State.Engaged.sameBut {l : List Part} (h : s.Engaged) (same : SameBut l s t)
    (n : Part.chans ∉ l ∧ Part.cal ∉ l ∧ Part.ports ∉ l ∧ Part.sessions ∉ l) : t.Engaged :=
  h.of_kept same ⟨n.2.1, n.2.2.1⟩ (fun c => by rw [same.chan n.1]; exact .refl _)
    (fun p => by simp [same.session n.2.2.2])

/-- The context closed, with no channel CALIBRATING and no port EXECUTING. -/
theorem engaged_closed (cal : t.cal = none) (drive : ∀ c, (t.chan c).drive ≠ .calibrating)
    (executing : ∀ p, (t.port p).isExecuting = false) : t.Engaged where
  named c e := absurd e (drive c)
  context x hx := by simp [cal] at hx
  executing p busy := by simp [executing p] at busy

theorem State.Engaged.idle_of_working (h : s.Engaged) {x : CalContext} (hx : s.cal = some x)
    (working : x.phase ≠ .committing) (p : Port) : (s.port p).isExecuting = false := by
  by_contra busy
  obtain ⟨y, hy, -, committing⟩ := h.executing p (by simpa using busy)
  rw [hx] at hy
  cases hy
  exact working committing

/-- A channel that does not drive, or has entered another drive state, is not CALIBRATING. -/
theorem Chan.Fits.entered {r t : Chan} {ok run : Bool} {d : Drive} (h : r.Fits ok run)
    (drive : t.drive = if r.config.range = .off ∨ ok = false then r.drive else d) : t.drive = .off ∨ t.drive = d := by
  split at drive
  · next stopped => exact .inl (drive.trans (h.off.2 stopped))
  · exact .inr drive

theorem Chan.Fits.force_ne_calibrating {r : Chan} {ok run : Bool} (h : r.Fits ok run) (a : Action) :
    (r.force ok a).drive ≠ .calibrating := by
  rcases h.entered (drive_force ok (a := a)) with e | e <;> simp [e]

theorem State.Engaged.grantPass (h : s.Engaged) (fitted : s.Fitted) : s.grantPass.Engaged := by
  refine h.of_named (cal_grantPass s) (fun x hx => ?_) (fun c drive => ?_)
    (fun x _ idle => by rw [session_grantPass]; exact ⟨idle, rfl⟩)
    (fun p => by rw [port_grantPass])
  · obtain ⟨own, -⟩ := h.context x hx
    rw [chan_grantPass_owned s own]
    exact .refl _ _
  · rcases chan_grantPass_cases s c with ⟨k, -, -, e, -⟩ | ⟨o, e, -⟩
    · rw [e] at drive
      rcases (fitted c).entered (drive_grant (s.bankOk c) (s.running k.port) k.port) with off | on
      · simp [off] at drive
      · rw [on] at drive
        split at drive <;> cases drive
    · rw [e] at drive
      exact drive

end Parts

end Sys2Proof.Machine

/-! # Every move keeps the drive sound -/

namespace Sys2Proof.Machine

/-! ## What the context sees of a channel's events -/

section Kept

variable (r : Chan)

/-- A step leaves the drive state, or moves on from HOLDING or RAMPING (R76 to R82). -/
theorem drive_tick_cases (v : Option Int) :
    (r.tick v).drive = r.drive ∨
      ((r.drive = .holding ∨ r.drive = .ramping) ∧ ((r.tick v).drive = .ramping ∨ (r.tick v).drive = .follow)) := by
  have ramp : ∀ (x : Chan) (t : Int), x.drive = .ramping → (x.ramp t).drive = .ramping ∨
    (x.ramp t).drive = .follow := by
    intro x t drive
    rcases ramp_cases x t with e | e <;> rw [e]
    · exact .inr rfl
    · exact .inl drive
  unfold Chan.tick
  split
  case h_4 d t drive target =>
    split
    · exact .inr ⟨.inl drive, .inr rfl⟩
    · split
      · exact .inr ⟨.inl drive, .inr rfl⟩
      · exact .inl rfl
    · exact .inr ⟨.inl drive, ramp _ t rfl⟩
  case h_5 d t drive target => exact .inr ⟨.inr drive, ramp r t drive⟩
  case h_7 => split <;> exact .inl rfl
  all_goals exact .inl rfl

theorem kept_tick (v : Option Int) : r.Kept (r.tick v) := by
  refine ⟨own_tick r v, by rw [config_tick], ?_⟩
  rcases drive_tick_cases r v with e | ⟨before | before, after | after⟩
  · rw [e]
  all_goals simp [before, after]

theorem kept_sample (high : Bool) (loop : Int) : r.Kept (r.sample high loop) := by
  refine ⟨own_sample r high loop, by rw [config_sample], ?_⟩
  unfold Chan.sample
  split <;> rfl

theorem drive_flagsTaken (n : Nat) (c : Channel) : (r.flagsTaken n c).drive = r.drive := by
  unfold Chan.flagsTaken
  dsimp only
  split <;> split <;> rfl

theorem kept_flagsTaken (n : Nat) (c : Channel) : r.Kept (r.flagsTaken n c) :=
  ⟨own_flagsTaken r n c, by rw [config_flagsTaken], by rw [drive_flagsTaken]⟩

theorem kept_countTimer : r.Kept r.countTimer := by
  refine ⟨own_countTimer r, by rw [config_countTimer], ?_⟩
  unfold Chan.countTimer
  split <;> rfl

variable {r}

theorem kept_expire (due : r.timerDue) : r.Kept r.expire := by
  have drive : r.drive = .holding := by simpa using (Bool.and_eq_true_iff.1 due).1
  refine ⟨own_expire r, by rw [config_expire], ?_⟩
  unfold Chan.expire
  split <;> simp [Chan.startRamp, drive]

theorem Chan.Fits.grant_ne_calibrating {ok run was : Bool} (h : r.Fits ok was) (p : Port) :
    (r.grant p run ok).drive ≠ .calibrating := by
  rcases h.entered (drive_grant ok run p) with e | e
  · simp [e]
  · cases run <;> simp [e]

theorem Chan.Fits.release_ne_calibrating {ok run : Bool} (h : r.Fits ok run) (a : Action) :
    (r.release ok a).drive ≠ .calibrating := by
  rcases h.entered (drive_release ok (a := a)) with e | e <;> simp [e]

theorem Chan.Fits.enter_ne_calibrating {ok run was : Bool} (h : r.Fits ok was) :
    (Chan.enter run ok r).drive ≠ .calibrating := by
  rcases h.entered (drive_enter ok run) with e | e
  · simp [e]
  · cases run <;> simp [e]

theorem changeRange_ne_calibrating (k : ChanConfig) (d run ok : Bool) :
    (r.changeRange k d run ok).drive ≠ .calibrating := by
  unfold Chan.changeRange
  split
  · next drives =>
    rw [drive_enter, if_neg (by simpa [Chan.rangeCleared] using drives.1)]
    cases run <;> simp
  · simp [Chan.rangeCleared]

end Kept

/-! ## Moves of the channels -/

section Channels

variable {s t : State}

theorem State.Sound.of_kept {l : List Part} (h : s.Sound) (same : SameBut l s t)
    (n : Part.claims ∉ l ∧ Part.sessions ∉ l ∧ Part.timebase ∉ l ∧ Part.leasesDue ∉ l ∧ Part.renewed ∉ l ∧
      Part.cal ∉ l ∧
      Part.ports ∉ l)
    (bank : ∀ c, t.bankOk c = s.bankOk c) (kept : ∀ c, (s.chan c).Kept (t.chan c))
    (fits : ∀ c run, (s.chan c).Fits (s.bankOk c) run → (t.chan c).Fits (s.bankOk c) run) : t.Sound := by
  obtain ⟨claims, sessions, timebase, leasesDue, renewed, cal, ports⟩ := n
  refine h.of_parts same ⟨sessions, timebase, leasesDue, renewed⟩ ?_ ?_ ?_
  · exact ownersOpen_congr (fun c => (kept c).own) (same .claims claims)
      (.of_sessions (same .sessions sessions)) h.owners
  · refine h.fitted.of_chans bank (same.running sessions) fun c hc => ?_
    rw [ownerRunning_congr (s := s) (kept c).own fun _ => rfl]
    exact fits c _ hc
  · exact h.engaged.of_kept same ⟨cal, ports⟩ kept fun p => by simp [same.session sessions]

theorem sound_mapChans {f : Channel → Chan → Chan} (h : s.Sound) (kept : ∀ c, (s.chan c).Kept (f c (s.chan c)))
    (fits : ∀ c run, (s.chan c).Fits (s.bankOk c) run → (f c (s.chan c)).Fits (s.bankOk c) run) :
    (s.mapChans f).Sound := by
  refine h.of_kept (sameBut_mapChans s f) (by simp) (bankOk_mapChans s f) (fun c => ?_) fun c run hc => ?_
  · rw [chan_mapChans]
    exact kept c
  · rw [chan_mapChans]
    exact fits c run hc

theorem State.Sound.sameBut {l : List Part} (h : s.Sound) (same : SameBut l s t)
    (n : Part.chans ∉ l ∧ Part.banks ∉ l ∧ Part.claims ∉ l ∧ Part.sessions ∉ l ∧ Part.timebase ∉ l ∧
      Part.leasesDue ∉ l ∧
      Part.renewed ∉ l ∧ Part.cal ∉ l ∧ Part.ports ∉ l) : t.Sound :=
  h.of_kept same n.2.2 (same.bankOk n.2.1) (fun c => by rw [same.chan n.1]; exact .refl _)
    (fun c run hc => by rwa [same.chan n.1])

theorem sound_monitor (h : s.Sound) (field : Vector Bool 4) (loop : Vector Int 16) : (s.monitor field loop).Sound := by
  have bank : ∀ (b : BankState) (high : Bool), (b.sample high).field = b.field := by
    rintro ⟨state, count⟩ high
    cases state <;> cases high <;> rfl
  refine h.of_kept (sameBut_monitor s field loop) (by simp) (fun c => ?_) (fun c => ?_) (fun c run hc => ?_)
  · rw [State.bankOk, bank_monitor, bank]
    rfl
  · rw [chan_monitor]
    exact kept_sample _ _ _
  · rw [chan_monitor]
    exact fits_sample hc _ _

theorem sound_storeTargets (h : s.Sound) (l : List (Channel × Int)) : (s.storeTargets l).Sound := by
  refine h.of_kept (sameBut_storeTargets s l) (by simp) ((sameBut_storeTargets s l).bankOk (by simp)) (fun c => ?_)
    (fun c run hc => ?_)
  · rw [chan_storeTargets]
    split <;> exact ⟨rfl, rfl, Iff.rfl⟩
  · rw [chan_storeTargets]
    split
    · exact fits_target hc _
    · exact hc

end Channels

/-! ## Field events -/

section Fields

variable {s : State} {b : Bank}

theorem calAborted_some {x : CalContext} (h : s.calAborted b = some x) :
    s.cal = some x ∧ bankOf x.channel = b ∧ x.phase ≠ .committing := by
  simpa [State.calAborted, Option.filter_eq_some_iff] using h

theorem sound_fieldLost (h : s.Sound) : (s.fieldLost b).Sound := by
  have same := sameBut_fieldLost s b
  have drive : ∀ c, ((s.fieldLost b).chan c).drive = .calibrating → bankOf c ≠ b ∧ (s.chan c).drive = .calibrating := by
    intro c
    rw [chan_fieldLost]
    split
    · simp [Chan.fieldLoss]
    · next other => exact fun e => ⟨other, e⟩
  refine h.of_parts same (by simp) ?_ ?_ ?_
  · refine ownersOpen_congr (fun c => ?_) (same .claims (by simp)) (.of_sessions (same .sessions (by simp))) h.owners
    rw [chan_fieldLost]
    split <;> rfl
  · intro c
    have fits := h.fitted c
    have running := ownerRunning_congr (s := s) (t := s.fieldLost b) (r := s.chan c) (x := s.chan c) rfl
      (same.running (by simp))
    rw [chan_fieldLost, State.bankOk, bank_fieldLost]
    by_cases e : bankOf c = b
    · rw [if_pos e, if_pos e.symm]
      rw [ownerRunning_congr (s := s) (own_fieldLoss (s.chan c)) (same.running (by simp))]
      exact fits_fieldLoss fits
    · rw [if_neg e, if_neg (Ne.symm e), running]
      exact fits
  · cases aborted : s.calAborted b with
    | some x =>
      obtain ⟨held, place, working⟩ := calAborted_some aborted
      refine engaged_closed (by simp [cal_fieldLost, aborted]) (fun c calibrating => ?_) fun p => ?_
      · obtain ⟨other, was⟩ := drive c calibrating
        obtain ⟨y, hy, rfl⟩ := calNames_iff.1 (h.named c was)
        rw [held] at hy
        cases hy
        exact other place
      · rw [same.port (by simp)]
        exact h.engaged.idle_of_working held working p
    | none =>
      refine h.engaged.of_named (by simp [cal_fieldLost, aborted]) (fun x hx => ?_) (fun c e => (drive c e).2)
        (fun x _ idle => by rw [same.session (by simp)]; exact ⟨idle, rfl⟩) (fun p => by rw [same.port (by simp)])
      rw [chan_fieldLost]
      split
      · next place =>
        refine ⟨rfl, rfl, fun working => ?_⟩
        simp [State.calAborted, hx, place, working] at aborted
      · exact .refl _ _

theorem sound_fieldRestored (h : s.Sound) (lost : (s.bank b).field = .lost) : (s.fieldRestored b).Sound := by
  have same := sameBut_fieldRestored s b
  have fits : ∀ c, bankOf c = b → (s.chan c).Fits false (s.ownerRunning (s.chan c)) := by
    rintro c rfl
    have ok : s.bankOk c = false := by simp [State.bankOk, lost]
    exact ok ▸ h.fitted c
  have own : ∀ c, ((s.fieldRestored b).chan c).own = (s.chan c).own := by
    intro c
    rw [chan_fieldRestored]
    split
    · exact own_restore _ _
    · rfl
  refine h.of_parts same (by simp) ?_ (fun c => ?_) ?_
  · exact ownersOpen_congr own (same .claims (by simp)) (.of_sessions (same .sessions (by simp))) h.owners
  · rw [ownerRunning_congr (own c) (same.running (by simp)), chan_fieldRestored, State.bankOk, bank_fieldRestored]
    by_cases e : bankOf c = b
    · rw [if_pos e, if_pos e.symm]
      exact fits_restore (fits c e)
    · rw [if_neg e, if_neg (Ne.symm e)]
      exact h.fitted c
  · refine h.engaged.of_named (same .cal (by simp)) (fun x _ => ⟨own _, ?_, fun _ drive => ?_⟩) (fun c drive => ?_)
      (fun x _ idle => by rw [same.session (by simp)]; exact ⟨idle, rfl⟩) (fun p => by rw [same.port (by simp)])
    · rw [chan_fieldRestored]
      split
      · rw [config_restore]
      · rfl
    · rw [chan_fieldRestored]
      split
      · next e => simp [(fits _ e).off.2 (.inr rfl)] at drive
      · exact drive
    · rw [chan_fieldRestored] at drive
      split at drive
      · next e =>
        rw [drive_restore (fits c e)] at drive
        split at drive
        · cases drive
        · split at drive <;> cases drive
      · exact drive

end Fields

end Sys2Proof.Machine

/-! # Sessions, claims and calibrations keep the drive sound -/

namespace Sys2Proof.Machine

/-! ## Sessions -/

section Sessions

variable {s t : State} {p : Port}

/-- The sessions of ports that do not hold the context may change in any way. -/
theorem State.Engaged.of_sessions {l : List Part} {who : Port → Bool} (h : s.Engaged) (same : SameBut l s t)
    (n : Part.chans ∉ l ∧ Part.cal ∉ l ∧ Part.ports ∉ l) (others : ∀ q, who q = false → t.session q = s.session q)
    (unheld : ∀ x, s.cal = some x → who x.port = false) : t.Engaged :=
  h.of_named (same .cal n.2.1) (fun x _ => by rw [same.chan n.1]; exact .refl _ _)
    (fun c drive => by rwa [same.chan n.1] at drive)
    (fun x hx idle => by rw [others _ (unheld x hx)]; exact ⟨idle, rfl⟩) (fun q => by rw [same.port n.2.2])

/-- The context is held under an open session (R139). -/
theorem State.Engaged.unheld (h : s.Engaged) (closed : (s.session p).state ≠ .idle) {x : CalContext}
    (hx : s.cal = some x) : x.port ≠ p := by
  rintro rfl
  obtain ⟨-, -, idle, -⟩ := h.context x hx
  exact closed idle

theorem ne_idle_of_not_open (closed : s.sessionOpen p = false) : (s.session p).state ≠ .idle := fun idle => by
  simp [State.sessionOpen, Session.isOpen, idle] at closed

/-- A session that is not open may become another (R59, R72). -/
theorem sound_session {l : List Part} (h : s.Sound) (same : SameBut l s t)
    (n : Part.chans ∉ l ∧ Part.banks ∉ l ∧ Part.cal ∉ l ∧ Part.ports ∉ l ∧ Part.claims ∉ l)
    (closed : s.sessionOpen p = false) (others : ∀ q, q ≠ p → t.session q = s.session q) (leases : t.LeasesRunning)
    (renewals : t.RenewalsWait) : t.Sound := by
  obtain ⟨unowned, unclaimed⟩ := unowned_of_not_open h.owners closed
  have other : ∀ q, decide (q = p) = false → t.session q = s.session q := fun q e => others q (by simpa using e)
  have free : ∀ c q, decide (q = p) = true → (s.chan c).own ≠ .owned q := fun c q e => of_decide_eq_true e ▸ unowned c
  exact sound_of_parts
    (ownersOpen_session (fun c => by rw [same.chan n.1]) (same .claims n.2.2.2.2) other free
      (fun k hk => by simpa using unclaimed k hk) h.owners)
    (h.fitted.of_sessions same ⟨n.1, n.2.1⟩ other free)
    (h.engaged.of_sessions same ⟨n.1, n.2.2.1, n.2.2.2.1⟩ other fun x hx => by
      simpa using h.engaged.unheld (ne_idle_of_not_open closed) hx) leases renewals

/-- A lease that runs for one session runs on for the others. -/
theorem leasesRunning_of_others (h : s.LeasesRunning) (others : ∀ q, q ≠ p → t.session q = s.session q)
    (mine : t.sessionOpen p → 1 ≤ (t.session p).counter ∧ (t.session p).counter ≤ (t.session p).lease) :
    t.LeasesRunning := by
  intro q opened
  by_cases e : q = p
  · subst e
    exact mine opened
  · rw [State.sessionOpen, others q e] at opened
    rw [others q e]
    exact h q opened

theorem sound_openAs (h : s.Sound) (priority lease : Nat) (closed : s.sessionOpen p = false) (leased : lease ≠ 0) :
    (s.openAs p priority lease).Sound := by
  have others : ∀ q, q ≠ p → (s.openAs p priority lease).session q = s.session q := fun q n => by
    rw [session_openAs, if_neg n.symm]
  refine sound_session h (sameBut_openAs s p priority lease) (by simp) closed others
    (leasesRunning_of_others h.leases others fun _ => ?_) fun q renewed => ?_
  · rw [session_openAs, if_pos rfl]
    exact ⟨Nat.one_le_iff_ne_zero.2 leased, le_rfl⟩
  · rw [renewed_openAs] at renewed
    refine h.renewals q ?_
    by_cases e : p = q
    · subst e
      simp at renewed
    · simpa [Vector.getElem_set, Fin.val_ne_of_ne e] using renewed

theorem sessionOpen_clearSession (q : Port) :
    (s.clearSession p).sessionOpen q = if p = q then false else s.sessionOpen q := by
  rw [State.sessionOpen, session_clearSession]
  split <;> rfl

theorem leasesRunning_clearSession (h : s.LeasesRunning) : (s.clearSession p).LeasesRunning :=
  leasesRunning_of_others h (p := p) (fun q n => by rw [session_clearSession, if_neg n.symm]) fun opened => by
    simp [sessionOpen_clearSession] at opened

theorem sound_clearSession (h : s.Sound) (closed : s.sessionOpen p = false) : (s.clearSession p).Sound :=
  sound_session h (sameBut_clearSession s p) (by simp) closed
    (fun q n => by rw [session_clearSession, if_neg n.symm]) (leasesRunning_clearSession h.leases)
    (renewalsWait_congr (sameBut_clearSession s p) (by simp) h.renewals)

theorem sound_refreshLease (h : s.Sound) (opened : s.sessionOpen p) : (s.refreshLease p).Sound := by
  have same := sameBut_refreshLease s p
  have alike : ∀ q, ((s.refreshLease p).session q).state = (s.session q).state ∧
      ((s.refreshLease p).session q).epoch = (s.session q).epoch := by
    intro q
    rw [session_refreshLease]
    split
    · next e => subst e; exact ⟨rfl, rfl⟩
    · exact ⟨rfl, rfl⟩
  refine sound_of_parts ?_ ?_ ?_ ?_ fun q renewed => ?_
  · exact ownersOpen_congr (fun c => by rw [same.chan (by simp)]) (same .claims (by simp))
      (fun q => ⟨by simp only [State.sessionOpen, Session.isOpen, alike], (alike q).2⟩) h.owners
  · exact h.fitted.of_chans (same.bankOk (by simp)) (fun q => by simp only [State.running, alike])
      fun c hc => by rwa [same.chan (by simp)]
  · exact h.engaged.of_kept same (by simp) (fun c => by rw [same.chan (by simp)]; exact .refl _) alike
  · refine leasesRunning_of_others h.leases (p := p)
      (fun q n => by rw [session_refreshLease, if_neg n.symm]) fun _ => ?_
    obtain ⟨least, most⟩ := h.leases p opened
    rw [session_refreshLease, if_pos rfl]
    exact ⟨least.trans most, le_rfl⟩
  · show s.unitDue ∨ s.leasesDue
    rw [renewed_refreshLease] at renewed
    split at renewed
    · next due => simpa using due
    · exact h.renewals q renewed

/-- The session changes between IDLE and RUN, and its channels enter accordingly (R63, R64). -/
theorem sound_mode {run : Bool} (h : s.Sound) (same : SameBut [.sessions, .chans] s t)
    (session : ∀ q, t.session q = if p = q then
      { s.session p with state := if run then .run else .idle } else s.session q)
    (chan : ∀ c, t.chan c = if (s.chan c).own = .owned p then Chan.enter run (s.bankOk c) (s.chan c) else s.chan c)
    (opened : s.sessionOpen p) (unheld : ∀ x, s.cal = some x → x.port ≠ p) : t.Sound := by
  have others : ∀ q, q ≠ p → t.session q = s.session q := fun q n => by rw [session, if_neg n.symm]
  have own : ∀ c, (t.chan c).own = (s.chan c).own := fun c => by
    rw [chan]
    split
    · exact own_enter _ _ _
    · rfl
  have runs : t.running p = run := by
    rw [State.running, session, if_pos rfl]
    cases run <;> simp
  refine sound_of_parts ?_ (fun c => ?_) ?_ ?_ (renewalsWait_congr same (by simp) h.renewals)
  · refine ownersOpen_congr own (same .claims (by simp)) (fun q => ?_) h.owners
    by_cases e : q = p
    · subst e
      rw [opened, State.sessionOpen, session, if_pos rfl]
      cases run <;> simp [Session.isOpen]
    · simp only [State.sessionOpen, others q e, and_self]
  · have fits := h.fitted c
    rw [same.bankOk (by simp), chan]
    split
    · next mine =>
      rw [ownerRunning_of_owned (p := p) ((own_enter _ _ _).trans mine), runs]
      exact fits_enter fits (owner_isSome.2 ⟨p, mine⟩)
    · next other =>
      have stays : t.ownerRunning (s.chan c) = s.ownerRunning (s.chan c) := by
        unfold State.ownerRunning
        cases owner : (s.chan c).owner with
        | none => rfl
        | some q =>
          have n : q ≠ p := fun e => other (e ▸ owner_eq_some.1 owner)
          simp only [State.running, others q n]
      rw [stays]
      exact fits
  · refine h.engaged.of_named (same .cal (by simp)) (fun x hx => ?_) (fun c drive => ?_)
      (fun x hx idle => by rw [others _ (unheld x hx)]; exact ⟨idle, rfl⟩) (fun q => by rw [same.port (by simp)])
    · obtain ⟨held, -⟩ := h.context x hx
      rw [chan, if_neg (by simpa [held] using unheld x hx)]
      exact .refl _ _
    · rw [chan] at drive
      split at drive
      · exact absurd drive (h.fitted c).enter_ne_calibrating
      · exact drive
  · refine leasesRunning_of_others h.leases others fun _ => ?_
    rw [session, if_pos rfl]
    exact h.leases p opened

theorem sound_goRun (h : s.Sound) (idle : (s.session p).state = .idle) (free : s.holdsCal p = false) :
    (s.goRun p).Sound := by
  refine sound_mode (run := true) h (sameBut_goRun s p) (session_goRun s p) (chan_goRun s p)
    (sessionOpen_iff.2 (.inl idle)) fun x hx e => ?_
  obtain ⟨-, -, -, epoch, -⟩ := h.context x hx
  subst e
  rw [holdsCal_of hx rfl epoch.symm] at free
  cases free

theorem sound_goIdle (h : s.Sound) (run : (s.session p).state = .run) : (s.goIdle p).Sound :=
  sound_mode (run := false) h (sameBut_goIdle s p) (session_goIdle s p) (chan_goIdle s p)
    (sessionOpen_iff.2 (.inr run)) fun _ => h.engaged.unheld (by simp [run])

end Sessions

/-! ## Claims -/

section Claims

variable {s t : State} {p : Port}

/-- A grant pass keeps the drive sound (R28). -/
theorem State.Sound.grantPass (h : s.Sound) : s.grantPass.Sound :=
  h.of_parts (sameBut_grantPass s) (by simp) (ownersOpen_grantPass h.owners) h.fitted.grantPass
    (h.engaged.grantPass h.fitted)

/-- Claims that change under open sessions. -/
theorem sound_claims {l : List Part} (h : s.Sound) (same : SameBut l s t)
    (n : Part.chans ∉ l ∧ Part.banks ∉ l ∧ Part.sessions ∉ l ∧ Part.timebase ∉ l ∧ Part.leasesDue ∉ l ∧
      Part.renewed ∉ l ∧
      Part.cal ∉ l ∧ Part.ports ∉ l) (owners : t.OwnersOpen) : t.Sound := by
  obtain ⟨chans, banks, sessions, timebase, leasesDue, renewed, cal, ports⟩ := n
  exact h.of_parts same ⟨sessions, timebase, leasesDue, renewed⟩ owners (h.fitted.sameBut same ⟨chans, sessions, banks⟩)
    (h.engaged.sameBut same ⟨chans, cal, ports, sessions⟩)

theorem sound_dropClaims (h : s.Sound) (keep : Claim → Bool) (l : List (Port × NoteBody)) :
    (State.notifyAll { s with claims := s.claims.filter keep } l).grantPass.Sound := by
  have fewer : State.Sound { s with claims := s.claims.filter keep } := by
    refine sound_claims (l := [.claims]) h (fun y hy => ?_) (by simp) ⟨h.owners.1, fun k hk => ?_⟩
    · cases y <;> simp [Part.Same] at hy ⊢
    · exact h.owners.2 k (List.mem_of_mem_filter hk)
  exact (fewer.sameBut (sameBut_notifyAll _ l) (by simp)).grantPass

theorem sound_queueClaim (h : s.Sound) (a : ClaimOperands) (opened : s.sessionOpen p) : (s.queueClaim p a).Sound := by
  refine State.Sound.grantPass (sound_claims (l := [.claims, .arrivals]) h (fun y hy => ?_) (by simp)
    (ownersOpen_insertClaim opened h.owners))
  cases y <;> simp [Part.Same] at hy ⊢

theorem sound_take {set : ChanSet} (h : s.Sound) (opened : s.sessionOpen p)
    (uncalibrated : ∀ c, inSet set c → (s.chan c).owner.isSome → s.calNames c = false) :
    ((s.revoke p set).grant p set).Sound := by
  have same := sameBut_take (s := s) (p := p) set
  have given : ∀ c, inSet set c →
      (((s.revoke p set).grant p set).chan c).Fits (s.bankOk c) (s.running p) ∧
        (((s.revoke p set).grant p set).chan c).drive ≠ .calibrating := by
    intro c hc
    have fits := h.fitted c
    rw [chan_grant_revoke, if_pos hc]
    split
    · have released := fits_release (run := false) fits (s.chan c).config.releaseAction
      exact ⟨fits_grant p released (owner_eq_none.2 (.inl (own_release _ _ _))), released.grant_ne_calibrating p⟩
    · next unowned =>
      exact ⟨fits_grant p fits (by simpa using unowned), fits.grant_ne_calibrating p⟩
  have kept : ∀ c, inSet set c = false → ((s.revoke p set).grant p set).chan c = s.chan c := fun c hc => by
    rw [chan_grant_revoke, if_neg (by simp [hc])]
  refine h.of_parts same (by simp) (ownersOpen_take opened h.owners) (fun c => ?_) ?_
  · rw [same.bankOk (by simp)]
    cases hc : inSet set c with
    | true =>
      rw [ownerRunning_of_owned (p := p) (by rw [own_take, if_pos hc]), same.running (by simp)]
      exact (given c hc).1
    | false =>
      rw [ownerRunning_congr (s := s) rfl (same.running (by simp)), kept c hc]
      exact h.fitted c
  · refine h.engaged.of_named (same .cal (by simp)) (fun x hx => ?_) (fun c drive => ?_)
      (fun x _ idle => by rw [same.session (by simp)]; exact ⟨idle, rfl⟩) (fun q => by rw [same.port (by simp)])
    · obtain ⟨own, -⟩ := h.context x hx
      rw [kept]
      · exact .refl _ _
      · by_contra hc
        have free := uncalibrated _ (by simpa using hc) (owner_isSome.2 ⟨_, own⟩)
        rw [calNames_of_cal hx] at free
        cases free
    · cases hc : inSet set c with
      | true => exact absurd drive (given c hc).2
      | false => rwa [kept c hc] at drive

/-- Channels that are taken from their owners, none of them the context's (R43). -/
theorem sound_freeSet {set : ChanSet} (h : s.Sound) (uncalibrated : ∀ c, inSet set c → s.calNames c = false) :
    (s.freeSet set).Sound := by
  have same : SameBut [.chans] s (s.freeSet set) := sameBut_mapChans s _
  have chan : ∀ c, (s.freeSet set).chan c =
      if inSet set c then (s.chan c).release (s.bankOk c) (s.chan c).config.releaseAction else s.chan c :=
    fun c => chan_mapChans _ _ c
  refine h.of_parts same (by simp) ?_ ?_ ?_
  · refine ownersOpen_freed (fun c => ?_) (by rw [same .claims (by simp)])
      (.of_sessions (same .sessions (by simp))) h.owners
    rw [chan]
    split
    · exact .inl rfl
    · exact .inr rfl
  · refine h.fitted.of_chans (same.bankOk (by simp)) (same.running (by simp)) fun c hc => ?_
    rw [chan]
    split
    · exact fits_release hc _
    · exact hc
  · refine h.engaged.of_named (same .cal (by simp)) (fun x hx => ?_) (fun c drive => ?_)
      (fun x _ idle => by rw [same.session (by simp)]; exact ⟨idle, rfl⟩) (fun q => by rw [same.port (by simp)])
    · rw [chan, if_neg]
      · exact .refl _ _
      · intro hc
        have free := uncalibrated _ hc
        rw [calNames_of_cal hx] at free
        cases free
    · rw [chan] at drive
      split at drive
      · exact absurd drive ((h.fitted c).release_ne_calibrating _)
      · exact drive

end Claims

/-! ## Withdrawals -/

section Withdrawals

variable {s : State} {p : Port} {who : Port → Bool} {pick : ChanConfig → Action}

theorem State.Fitted.withdraw (h : s.Fitted) : (s.withdraw who pick).Fitted := by
  have same := sameBut_withdraw s who pick
  refine h.of_chans (same.bankOk (by simp)) (same.running (by simp)) fun c hc => ?_
  rw [chan_withdraw]
  split
  · split
    · exact fits_release hc _
    · exact hc
  all_goals exact hc

/-- After a withdrawal the context is no session's that was withdrawn (R48). -/
theorem unheld_withdraw (h : s.Engaged) {x : CalContext} (hx : (s.withdraw who pick).cal = some x) :
    who x.port = false := by
  rw [cal_withdraw h.context] at hx
  simpa using (Option.filter_eq_some_iff.1 hx).2

theorem State.Engaged.withdraw (h : s.Engaged) (fitted : s.Fitted)
    (ready : ∀ q, who q → (s.port q).isExecuting = false) : (s.withdraw who pick).Engaged := by
  have same := sameBut_withdraw s who pick
  have cal := cal_withdraw h.context who pick
  have drive : ∀ c, ((s.withdraw who pick).chan c).drive = .calibrating →
      (s.chan c).drive = .calibrating ∧ ∀ q, (s.chan c).own = .owned q → who q = false := by
    intro c e
    rw [chan_withdraw] at e
    split at e
    · next q own =>
      split at e
      · exact absurd e ((fitted c).release_ne_calibrating _)
      · next stays => exact ⟨e, fun q' own' => by rw [own] at own'; cases own'; simpa using stays⟩
    all_goals
      next own => exact ⟨e, fun q' own' => by rw [own] at own'; cases own'⟩
  cases held : s.cal with
  | none =>
    refine h.of_named (by rw [cal, held]; rfl) (fun x hx => by simp [held] at hx) (fun c e => (drive c e).1)
      (fun x hx => by simp [held] at hx) (fun q => by rw [same.port (by simp)])
  | some x =>
    obtain ⟨own, -⟩ := h.context x held
    cases gone : who x.port with
    | true =>
      refine engaged_closed (by rw [cal, held]; simp [Option.filter, gone]) (fun c e => ?_) fun q => ?_
      · obtain ⟨was, stays⟩ := drive c e
        obtain ⟨y, hy, rfl⟩ := calNames_iff.1 (h.named c was)
        rw [held] at hy
        cases hy
        rw [stays _ own] at gone
        cases gone
      · rw [same.port (by simp)]
        by_contra busy
        obtain ⟨y, hy, rfl, -⟩ := h.executing q (by simpa using busy)
        rw [held] at hy
        cases hy
        exact busy (ready _ gone)
    | false =>
      refine h.of_named (by rw [cal, held]; simp [Option.filter, gone]) (fun y hy => ?_) (fun c e => (drive c e).1)
        (fun y _ idle => by rw [same.session (by simp)]; exact ⟨idle, rfl⟩) (fun q => by rw [same.port (by simp)])
      rw [held] at hy
      cases hy
      rw [chan_withdraw, own]
      simp only [gone]
      exact .refl _ _

theorem sound_withdraw (h : s.Sound) (ready : ∀ q, who q → (s.port q).isExecuting = false) :
    (s.withdraw who pick).Sound :=
  h.of_parts (sameBut_withdraw s who pick) (by simp) (ownersOpen_withdraw h.owners who pick) h.fitted.withdraw
    (h.engaged.withdraw h.fitted ready)

theorem sound_close (h : s.Sound) (free : (s.port p).isExecuting = false) :
    (((s.withdraw (fun q => q = p) ChanConfig.releaseAction).grantPass).clearSession p).Sound := by
  obtain ⟨unowned, unclaimed⟩ := unowned_withdraw h.owners (fun q => decide (q = p)) ChanConfig.releaseAction
  obtain ⟨unowned, unclaimed⟩ :=
    unowned_grantPass (p := p) (fun c => unowned c p (by simp)) fun k hk => by simpa using unclaimed k hk
  have pass := (sound_withdraw (who := fun q => decide (q = p)) (pick := ChanConfig.releaseAction) h
    (fun q e => of_decide_eq_true e ▸ free)).grantPass
  have unheld : ∀ x, (s.withdraw (fun q => decide (q = p)) ChanConfig.releaseAction).grantPass.cal = some x →
      decide (x.port = p) = false := fun x hx => unheld_withdraw h.engaged ((cal_grantPass _).symm.trans hx)
  generalize (s.withdraw (fun q => decide (q = p)) ChanConfig.releaseAction).grantPass = u at *
  have same := sameBut_clearSession u p
  have others : ∀ q, decide (q = p) = false → (u.clearSession p).session q = u.session q := fun q e => by
    rw [session_clearSession, if_neg (Ne.symm (of_decide_eq_false e))]
  have free : ∀ c q, decide (q = p) = true → (u.chan c).own ≠ .owned q := fun c q e => of_decide_eq_true e ▸ unowned c
  exact sound_of_parts
    (ownersOpen_session (fun c => by rw [same.chan (by simp)]) (same .claims (by simp)) others free
      (fun k hk => by simpa using unclaimed k hk) pass.owners)
    (pass.fitted.of_sessions same (by simp) others free)
    (pass.engaged.of_sessions same (by simp) others unheld) (leasesRunning_clearSession pass.leases)
    (renewalsWait_congr same (by simp) pass.renewals)

end Withdrawals

end Sys2Proof.Machine

/-! # The timer-unit event and the calibration keep the drive sound; every step does -/

namespace Sys2Proof.Machine

/-! ## The timer-unit event and the lapse -/

section Units

variable {s t : State}

theorem countLease_cases (x : Session) (e r : Bool) :
    x.countLease e r = x ∨ (e = false ∧ x.countLease e r = { x with counter := x.counter - 1 }) := by
  unfold Session.countLease
  split
  · next counts => exact .inr ⟨by simp at counts; exact counts.1.2, rfl⟩
  · exact .inl rfl

theorem countLease_alike (x : Session) (e r : Bool) :
    (x.countLease e r).state = x.state ∧ (x.countLease e r).epoch = x.epoch ∧ (x.countLease e r).lease = x.lease ∧
      (x.countLease e r).counter ≤ x.counter := by
  rcases countLease_cases x e r with same | ⟨-, counts⟩
  · rw [same]
    exact ⟨rfl, rfl, rfl, le_rfl⟩
  · rw [counts]
    exact ⟨rfl, rfl, rfl, Nat.sub_le _ _⟩

/-- The lease counters have been counted, and those that reached 0 end their session next (R67, R68). -/
def State.LeasesCounted (s : State) : Prop :=
  ∀ p, s.sessionOpen p → (s.session p).counter ≤ (s.session p).lease ∧
    ((s.port p).isExecuting → (s.session p).lapseDue = false)

theorem leasesRunning_of_counted (h : s.LeasesCounted) (none : ∀ p, (s.session p).lapseDue = false) :
    s.LeasesRunning := by
  intro p opened
  have due := none p
  rw [Session.lapseDue, Bool.and_eq_false_iff] at due
  have counter : (s.session p).counter ≠ 0 :=
    by simpa using due.resolve_left (by simpa [State.sessionOpen] using opened)
  exact ⟨Nat.one_le_iff_ne_zero.2 counter, (h p opened).1⟩

theorem leasesCounted_of {executing renewed : Port → Bool} (h : s.LeasesRunning)
    (ports : ∀ p, (t.port p).isExecuting = executing p)
    (sessions : ∀ p, t.session p = (s.session p).countLease (executing p) (renewed p)) : t.LeasesCounted := by
  intro p opened
  obtain ⟨state, -, lease, less⟩ := countLease_alike (s.session p) (executing p) (renewed p)
  have was : s.sessionOpen p := by
    simpa only [State.sessionOpen, Session.isOpen, sessions, state] using opened
  obtain ⟨least, most⟩ := h p was
  rw [sessions, lease]
  refine ⟨less.trans most, fun busy => ?_⟩
  rw [ports] at busy
  rcases countLease_cases (s.session p) (executing p) (renewed p) with same | ⟨free, -⟩
  · rw [same]
    by_contra due
    obtain ⟨-, zero⟩ := lapseDue_iff.1 (by simpa using due)
    omega
  · rw [free] at busy
    cases busy

theorem session_countUnit_cases (s : State) :
    (s.leaseEnds ∧ ∀ p, s.countUnit.session p = s.session p) ∨
      (s.leaseEnds = false ∧ ∀ p, s.countUnit.session p = (s.session p).countLease
        (s.port p).isExecuting s.renewed[p]) := by
  obtain ⟨-, -, -, -, sessions, -, -, -⟩ := countUnit_spec s
  cases ends : s.leaseEnds
  · exact .inr ⟨rfl, fun p => by rw [sessions, ends]; rfl⟩
  · exact .inl ⟨rfl, fun p => by rw [sessions, ends]; rfl⟩

theorem sound_countUnit (h : s.Sound) : s.countUnit.Sound := by
  obtain ⟨chans, timebase, -, -, -, leasesDue, renewed, same⟩ := countUnit_spec s
  have alike : ∀ p, (s.countUnit.session p).state = (s.session p).state ∧
      (s.countUnit.session p).epoch = (s.session p).epoch := by
    intro p
    rcases session_countUnit_cases s with ⟨-, e⟩ | ⟨-, e⟩ <;> rw [e]
    · exact ⟨rfl, rfl⟩
    · obtain ⟨state, epoch, -⟩ := countLease_alike (s.session p) (s.port p).isExecuting s.renewed[p]
      exact ⟨state, epoch⟩
  refine sound_of_parts (ownersOpen_countUnit h.owners) ?_ ?_ ?_ fun p marked => ?_
  · refine h.fitted.of_chans (same.bankOk (by simp)) (fun p => by simp only [State.running, alike]) fun c hc => ?_
    rw [chans, ownerRunning_congr (s := s) (own_countTimer _) fun _ => rfl]
    exact fits_countTimer hc
  · exact h.engaged.of_kept same (by simp) (fun c => by rw [chans]; exact kept_countTimer _) alike
  · rcases session_countUnit_cases s with ⟨-, e⟩ | ⟨ends, e⟩
    · exact leasesRunning_congr e h.leases
    · refine leasesRunning_of_counted
        (leasesCounted_of (executing := fun p => (s.port p).isExecuting) (renewed := fun p => s.renewed[p]) h.leases
          (fun p => by rw [same.port (by simp)]) e) fun p => ?_
      rw [e]
      by_contra due
      have ended : s.leaseEnds := List.any_eq_true.2 ⟨p, mem_allPorts p, by simpa using due⟩
      rw [ended] at ends
      cases ends
  · rw [renewed] at marked
    split at marked
    · next ends => exact .inr (leasesDue.trans ends)
    · simp at marked

/-- After the leases are counted nothing waits for the session block. -/
theorem renewalsWait_of_cleared (renewed : s.renewed = Vector.replicate 4 false) : s.RenewalsWait := fun p marked => by
  rw [renewed] at marked
  simp at marked

theorem sound_lapse (h : s.Sound) : s.countLeases.lapseSessions.Sound := by
  have counts := sameBut_countLeases s
  have renewals : s.countLeases.lapseSessions.RenewalsWait :=
    renewalsWait_of_cleared (sameBut_lapseSessions s.countLeases .renewed (by simp))
  have counted : s.countLeases.LeasesCounted :=
    leasesCounted_of (executing := fun p => (s.port p).isExecuting) (renewed := fun p => s.renewed[p]) h.leases
      (fun p => by rw [counts.port (by simp)]) (session_countLeases s)
  have alike : ∀ p, (s.countLeases.session p).state = (s.session p).state ∧
      (s.countLeases.session p).epoch = (s.session p).epoch := by
    intro p
    rw [session_countLeases]
    obtain ⟨state, epoch, -⟩ := countLease_alike (s.session p) (s.port p).isExecuting s.renewed[p]
    exact ⟨state, epoch⟩
  have owners : s.countLeases.OwnersOpen :=
    ownersOpen_congr (fun c => by rw [counts.chan (by simp)])
      (counts .claims (by simp)) sessionsAlike_countLeases h.owners
  have fitted : s.countLeases.Fitted :=
    h.fitted.of_chans (counts.bankOk (by simp)) (fun p => by simp only [State.running, alike]) fun c hc => by
      rwa [counts.chan (by simp)]
  have engaged : s.countLeases.Engaged :=
    h.engaged.of_kept counts (by simp) (fun c => by rw [counts.chan (by simp)]; exact .refl _) alike
  generalize s.countLeases = u at *
  rcases lapseSessions_cases u with ⟨none, never⟩ | after
  · rw [none] at renewals ⊢
    exact sound_of_parts owners fitted engaged (leasesRunning_of_counted counted never) renewals
  · have ready : ∀ q, (u.session q).lapseDue → (u.port q).isExecuting = false := by
      intro q due
      by_contra busy
      rw [(counted q (lapseDue_iff.1 due).1).2 (by simpa using busy)] at due
      cases due
    have only := sameBut_withdraw_lapseWithdrawn (s := u)
    have withdrawn := sameBut_withdraw u (fun q => (u.session q).lapseDue) ChanConfig.lapseAction
    obtain ⟨unowned, -⟩ := unowned_withdraw owners (fun q => (u.session q).lapseDue) ChanConfig.lapseAction
    have others : ∀ q, (u.session q).lapseDue = false → u.lapseWithdrawn.session q =
        (u.withdraw (fun q => (u.session q).lapseDue) ChanConfig.lapseAction).session q := fun q stays => by
      rw [session_lapseWithdrawn, if_neg (by simp [stays]), withdrawn.session (by simp)]
    have fits : u.lapseWithdrawn.Fitted :=
      fitted.withdraw.of_sessions only (by simp) (who := fun q => (u.session q).lapseDue) others unowned
    have calibrates : u.lapseWithdrawn.Engaged :=
      (engaged.withdraw fitted ready).of_sessions only (by simp) others fun x hx => unheld_withdraw engaged hx
    have kept := ownersOpen_grantPass (ownersOpen_lapseWithdrawn owners)
    refine sound_of_parts
      (ownersOpen_congr (fun c => by rw [after.chan (by simp)]) (after .claims (by simp))
        (.of_sessions (after .sessions (by simp))) kept)
      (fits.grantPass.sameBut after (by simp)) ((calibrates.grantPass fits).sameBut after (by simp))
        (fun p opened => ?_)
      renewals
    rw [after.session (by simp), session_grantPass, session_lapseWithdrawn]
    rw [after.sessionOpen (by simp), sessionOpen_grantPass, State.sessionOpen, session_lapseWithdrawn] at opened
    split at opened
    · cases opened
    · next stays =>
      rw [if_neg stays]
      have most := (counted p opened).1
      have least : (u.session p).counter ≠ 0 := fun zero => stays (lapseDue_iff.2 ⟨opened, zero⟩)
      exact ⟨Nat.one_le_iff_ne_zero.2 least, most⟩

end Units

/-! ## CONFIGURE and the calibration -/

section Calibration

variable {s t : State} {p : Port} {c : Channel}

theorem configureCheck_eq_none_iff :
    s.configureCheck p c = none ↔
      (s.chan c).own = .owned p ∧ (s.running p = false ∨ (s.chan c).ranged = false) ∧ s.calNames c = false := by
  unfold State.configureCheck
  by_cases own : (s.chan c).own = .owned p <;> cases s.running p <;> cases (s.chan c).ranged <;> cases s.calNames c <;>
    simp [Chan.ownedBy, own]

theorem sound_configure {k : ChanConfig} (h : s.Sound) (passes : s.configureCheck p c = none) :
    (s.configure p c k).Sound := by
  obtain ⟨own, -, unnamed⟩ := configureCheck_eq_none_iff.1 passes
  have same := sameBut_configure s p c k
  have owns : ∀ e, ((s.configure p c k).chan e).own = (s.chan e).own := by
    intro e
    rw [chan_configure]
    split
    · next at_c =>
      subst at_c
      split
      · rfl
      · exact own_changeRange _ _ _ _ _
    · rfl
  refine h.of_parts same (by simp) ?_ (fun e => ?_) ?_
  · exact ownersOpen_congr owns (same .claims (by simp)) (.of_sessions (same .sessions (by simp))) h.owners
  · have fits := h.fitted e
    rw [ownerRunning_congr (s := s) (owns e) (same.running (by simp)), same.bankOk (by simp), chan_configure]
    split
    · next at_c =>
      subst at_c
      split
      · next range => exact fits_config fits range
      · rw [ownerRunning_of_owned own]
        exact fits_changeRange (owner_isSome.2 ⟨p, own⟩)
    · exact fits
  · refine h.engaged.of_named (same .cal (by simp)) (fun x hx => ?_) (fun e drive => ?_)
      (fun x _ idle => by rw [same.session (by simp)]; exact ⟨idle, rfl⟩) (fun q => by rw [same.port (by simp)])
    · rw [chan_configure, if_neg]
      · exact .refl _ _
      · rintro rfl
        rw [calNames_of_cal hx] at unnamed
        cases unnamed
    · rw [chan_configure] at drive
      split at drive
      · next at_c =>
        subst at_c
        split at drive
        · exact drive
        · exact absurd drive (changeRange_ne_calibrating _ _ _ _)
      · exact drive

/-- What the checks of BEGIN say of the context they open (R141). -/
theorem beginCheck_ok {b : Byte} {x : CalContext} (h : s.beginCheck p b = .ok x) :
    s.cal = none ∧ (s.chan x.channel).own = .owned p ∧ s.running p = false ∧ s.bankOk x.channel ∧
      (s.chan x.channel).config.range = .driving x.range ∧
      x = { phase := .opened, port := p, epoch := (s.session p).epoch, channel := x.channel, range := x.range
            start := (s.chan x.channel).applied, measuredLow := none, measuredHigh := none, computed := none } := by
  unfold State.beginCheck at h
  split at h
  · cases h
  · split at h
    · cases h
    · next free =>
      split at h
      · cases h
      · next own =>
        split at h
        · cases h
        · next stopped =>
          split at h
          · cases h
          · next range =>
            split at h
            · next ok =>
              cases h
              exact ⟨by simpa using free, ownedBy_iff.1 (by simpa using own), by simpa using stopped, ok, range, rfl⟩
            · cases h

theorem sound_beginCal {b : Byte} {x : CalContext} (h : s.Sound) (passes : s.beginCheck p b = .ok x) :
    (s.beginCal x).Sound := by
  obtain ⟨none, own, stopped, ok, range, fields⟩ := beginCheck_ok passes
  have same := sameBut_beginCal s x
  have free : ∀ q, (s.port q).isExecuting = false := by
    intro q
    by_contra busy
    obtain ⟨y, hy, -⟩ := h.executing q (by simpa using busy)
    simp [none] at hy
  have idle : (s.session p).state = .idle :=
    (sessionOpen_iff.1 (h.owners.1 _ _ own)).resolve_right fun run => by simp [running_iff.2 run] at stopped
  have owns : ∀ e, ((s.beginCal x).chan e).own = (s.chan e).own := fun e => by
    rw [chan_beginCal]
    split
    · next e => rw [← e]
    · rfl
  refine h.of_parts same (by simp) ?_ (fun e => ?_) ⟨fun e drive => ?_, fun y hy => ?_, fun q busy => ?_⟩
  · exact ownersOpen_congr owns (same .claims (by simp)) (.of_sessions (same .sessions (by simp))) h.owners
  · rw [ownerRunning_congr (s := s) (owns e) (same.running (by simp)), same.bankOk (by simp), chan_beginCal]
    split
    · next at_x =>
      subst at_x
      rw [ownerRunning_of_owned own, stopped, ok]
      refine ⟨by simp [range], show _ ∧ _ from ⟨rfl, rfl, rfl⟩, ?_⟩
      show Drive.calibrating ∈ drivesAllowed (s.chan x.channel).owner false
      simp [owner_eq_some.2 own, drivesAllowed]
    · exact h.fitted e
  · rw [chan_beginCal] at drive
    split at drive
    · next at_x => exact at_x ▸ calNames_of_cal rfl
    · have named := h.named e drive
      simp [State.calNames, none] at named
  · cases hy
    rw [owns, same.session (by simp), same.port (by simp), free]
    rw [fields] at own range ⊢
    refine ⟨own, ?_, idle, rfl, fun _ => ?_, by simp, by simp⟩
    · rw [chan_beginCal, fields, if_pos rfl]
      exact range
    · rw [chan_beginCal, fields, if_pos rfl]
  · rw [same.port (by simp), free] at busy
    cases busy

/-- The context goes on in another phase, at its place. -/
theorem State.Engaged.recontext {x y : CalContext} {l : List Part} (h : s.Engaged) (same : SameBut l s t)
    (n : Part.sessions ∉ l) (kept : ∀ c, (s.chan c).Kept (t.chan c)) (held : s.cal = some x) (cal : t.cal = some y)
    (place : y.port = x.port ∧ y.epoch = x.epoch ∧ y.channel = x.channel ∧ y.range = x.range)
    (drive : y.phase ≠ .committing → (s.chan x.channel).drive = .calibrating)
    (formed : y.computed.isSome ↔ y.phase = .computed ∨ y.phase = .committing)
    (busy : y.phase = .committing ↔ (t.port x.port).isExecuting) (alone : ∀ q, (t.port q).isExecuting → q = x.port) :
    t.Engaged := by
  obtain ⟨port, epoch, channel, range⟩ := place
  obtain ⟨own, driving, idle, age, -⟩ := h.context x held
  refine ⟨fun c e => ?_, fun z hz => ?_, fun q e => ?_⟩
  · obtain ⟨z, hz, rfl⟩ := calNames_iff.1 (h.named c ((kept c).calibrating.1 e))
    rw [held] at hz
    cases hz
    rw [← channel]
    exact calNames_of_cal cal
  · rw [cal] at hz
    cases hz
    rw [port, epoch, channel, range, same.session n, (kept _).own, (kept _).range]
    exact ⟨own, driving, idle, age, fun working => (kept _).calibrating.2 (drive working), formed, busy⟩
  · have port' := alone q e
    subst port'
    exact ⟨y, cal, port, busy.2 e⟩

theorem sound_setCal {x : CalContext} {phase : CalPhase} {computed : Option Coeff} (h : s.Sound) (held : s.cal = some x)
    (before : x.phase ≠ .committing) (after : phase ≠ .committing) (formed : computed.isSome ↔ phase = .computed) :
    (s.setCal { x with phase, computed }).Sound := by
  have same := sameBut_setCal s { x with phase, computed }
  obtain ⟨-, -, -, -, drive, -⟩ := h.context x held
  have kept : ∀ c, (s.chan c).Kept ((s.setCal { x with phase, computed }).chan c) := fun c => by
    rw [chan_setCal]
    split
    · next e => rw [← e]; exact ⟨rfl, rfl, Iff.rfl⟩
    · exact .refl _
  have free := fun q => h.engaged.idle_of_working held before q
  refine h.of_parts same (by simp) ?_ (fun c => ?_) ?_
  · exact ownersOpen_congr (fun c => (kept c).own) (same .claims (by simp))
      (.of_sessions (same .sessions (by simp))) h.owners
  · have fits := h.fitted c
    rw [ownerRunning_congr (s := s) (kept c).own (same.running (by simp)), same.bankOk (by simp), chan_setCal]
    split
    · next at_x =>
      subst at_x
      refine fits_congr fits rfl rfl rfl ?_
      have fields := fits.fields
      rw [Chan.Agrees, drive before] at fields
      rw [Chan.Agrees, show Chan.drive { s.chan x.channel with applied := _ } = .calibrating from drive before]
      exact fields
    · exact fits
  · refine h.engaged.recontext same (by simp) kept held rfl ⟨rfl, rfl, rfl, rfl⟩
      (fun _ => drive before) ?_ ?_ fun q busy => ?_
    · simp [formed, after]
    · rw [same.port (by simp), free]
      simp [after]
    · rw [same.port (by simp), free] at busy
      cases busy

theorem measure_place (x : CalContext) (v : Int) (point : CalPoint) :
    (x.measure v point).port = x.port ∧ (x.measure v point).epoch = x.epoch ∧ (x.measure v point).channel = x.channel ∧
      (x.measure v point).range = x.range := by
  cases point <;> exact ⟨rfl, rfl, rfl, rfl⟩

theorem measure_stays (x : CalContext) (v : Int) (point : CalPoint) :
    (x.measure v point).phase = x.phase ∧ (x.measure v point).computed = x.computed := by
  cases point <;> exact ⟨rfl, rfl⟩

/-- The context alone changes, and the port that holds it. -/
theorem sound_recontext {l : List Part} (h : s.Sound) (same : SameBut l s t)
    (n : ∀ y ∈ l, y ∈ [Part.cal, .ports, .store])
    (engaged : t.Engaged) : t.Sound := by
  have out : ∀ y, y ∉ [Part.cal, .ports, .store] → y ∉ l := fun y hy hl => hy (n y hl)
  exact h.of_parts same ⟨out _ (by simp), out _ (by simp), out _ (by simp), out _ (by simp)⟩
    (ownersOpen_congr (fun c => by rw [same.chan (out _ (by simp))]) (same .claims (out _ (by simp)))
      (.of_sessions (same .sessions (out _ (by simp)))) h.owners)
    (h.fitted.sameBut same ⟨out _ (by simp), out _ (by simp), out _ (by simp)⟩) engaged

theorem sound_measure {x : CalContext} (h : s.Sound) (v : Int) (point : CalPoint) (held : s.cal = some x) :
    State.Sound { s with cal := some (x.measure v point) } := by
  have same : SameBut [.cal] s { s with cal := some (x.measure v point) } := by
    intro y hy
    cases y <;> simp [Part.Same] at hy ⊢
  obtain ⟨-, -, -, -, drive, formed, busy⟩ := h.context x held
  obtain ⟨phase, computed⟩ := measure_stays x v point
  refine sound_recontext h same (by simp) (h.engaged.recontext same (by simp) (fun _ => .refl _) held rfl
    (measure_place x v point) ?_ ?_ ?_ fun q e => ?_)
  · rwa [phase]
  · rwa [phase, computed]
  · rw [phase]
    exact busy
  · obtain ⟨z, hz, port, -⟩ := h.executing q e
    rw [held] at hz
    cases hz
    exact port.symm

theorem isExecuting_modPort (s : State) (p : Port) (k : PortState → PortState) (q : Port) :
    ((s.modPort p k).port q).isExecuting = if p = q then (k (s.port p)).isExecuting else (s.port q).isExecuting := by
  rw [port_modPort]
  split <;> rfl

theorem sound_commit {x : CalContext} (h : s.Sound) (seq : Byte) (held : s.cal = some x)
    (computed : x.phase = .computed) :
    (State.modPort { s with cal := some { x with phase := .committing } } x.port
      fun y => { y with transport := .executing seq }).Sound := by
  have working : x.phase ≠ .committing := by simp [computed]
  have free := fun q => h.engaged.idle_of_working held working q
  obtain ⟨-, -, -, -, drive, formed, -⟩ := h.context x held
  have port := isExecuting_modPort { s with cal := some { x with phase := .committing } } x.port
    fun y => { y with transport := .executing seq }
  have same : SameBut [.cal, .ports] s (State.modPort { s with cal := some { x with phase := .committing } } x.port
      fun y => { y with transport := .executing seq }) := by
    intro y hy
    cases y <;> simp [Part.Same] at hy ⊢
  refine sound_recontext h same (by simp) (h.engaged.recontext same (by simp)
    (fun c => by rw [same.chan (by simp)]; exact .refl _) held rfl ⟨rfl, rfl, rfl, rfl⟩ (fun _ => drive working) ?_ ?_
    fun q e => ?_)
  · simpa [computed] using formed
  · rw [port, if_pos rfl]
    exact ⟨fun _ => rfl, fun _ => rfl⟩
  · rw [port] at e
    split at e
    · next same => exact same.symm
    · exact absurd (show (s.port q).isExecuting from e) (by simp [free])

/-- The context closes and its channel is forced with its idle action (R102); what the completion of a commit does
beside it, no invariant reads. -/
theorem sound_closed {x : CalContext} {l : List Part} (h : s.Sound) (held : s.cal = some x) (same : SameBut l s t)
    (n : ∀ y ∈ l, y ∈ [Part.chans, .cal, .store, .queues, .ports]) (none : t.cal = none)
    (chan : ∀ c, ∃ d : Bool, t.chan c =
      if x.channel = c then { (s.chan c).force (s.bankOk c) (s.chan c).config.idleAction with
        calDefault := d } else s.chan c)
    (free : ∀ q, (t.port q).isExecuting = false) : t.Sound := by
  have out : ∀ y, y ∉ [Part.chans, .cal, .store, .queues, .ports] → y ∉ l := fun y hy hl => hy (n y hl)
  obtain ⟨own, -, idle, -⟩ := h.context x held
  have owns : ∀ c, (t.chan c).own = (s.chan c).own := fun c => by
    obtain ⟨d, e⟩ := chan c
    rw [e]
    split
    · exact own_force _ _ _
    · rfl
  refine h.of_parts same ⟨out _ (by simp), out _ (by simp), out _ (by simp), out _ (by simp)⟩ ?_ (fun c => ?_) ?_
  · exact ownersOpen_congr owns (same .claims (out _ (by simp)))
      (.of_sessions (same .sessions (out _ (by simp)))) h.owners
  · have fits := h.fitted c
    obtain ⟨d, e⟩ := chan c
    rw [ownerRunning_congr (s := s) (owns c) (same.running (out _ (by simp))), same.bankOk (out _ (by simp)), e]
    split
    · next at_x =>
      subst at_x
      have stopped : s.ownerRunning (s.chan x.channel) = false := by
        rw [ownerRunning_of_owned own]
        simp [State.running, idle]
      have forced := fits_force fits (fun _ => stopped) (s.chan x.channel).config.idleAction
      exact fits_congr forced rfl rfl rfl (agrees_congr forced.fields rfl rfl rfl rfl rfl rfl id)
    · exact fits
  · refine engaged_closed none (fun c calibrating => ?_) free
    obtain ⟨d, e⟩ := chan c
    rw [e] at calibrating
    split at calibrating
    · exact (h.fitted c).force_ne_calibrating _ calibrating
    · next other =>
      obtain ⟨y, hy, at_y⟩ := calNames_iff.1 (h.named c calibrating)
      rw [held] at hy
      cases hy
      exact other at_y

theorem sound_abort {x : CalContext} (h : s.Sound) (held : s.cal = some x) (working : x.phase ≠ .committing) :
    (s.closeCal x.channel).Sound := by
  have same := sameBut_closeCal s x.channel
  refine sound_closed h held same (by simp) rfl
    (fun c => ⟨((s.chan c).force (s.bankOk c) (s.chan c).config.idleAction).calDefault, ?_⟩) fun q => ?_
  · rw [chan_closeCal]
    split
    · next at_x => rw [at_x]
    · rfl
  · rw [same.port (by simp)]
    exact h.engaged.idle_of_working held working q

/-- The port of a commit is answered, and no other is EXECUTING. -/
theorem isExecuting_complete {x : CalContext} {u : State} (h : s.Engaged) (held : s.cal = some x)
    (ports : u.ports = s.ports)
    (kind seq : Byte) (r : Reply) (q : Port) : ((u.complete x.port kind seq r).port q).isExecuting = false := by
  have port : u.port q = s.port q := by simp only [State.port, ports]
  rw [port_complete]
  split
  · rfl
  · next other =>
    rw [port]
    by_contra busy
    obtain ⟨y, hy, at_y, -⟩ := h.executing q (by simpa using busy)
    rw [held] at hy
    cases hy
    exact other at_y

theorem sound_commitDone {x : CalContext} (h : s.Sound) (held : s.cal = some x) : (s.commitDone x).Sound := by
  refine sound_closed h held (sameBut_commitDone s x) (by simp) rfl (fun c => ⟨_, chan_commitDone s x c⟩) fun q => ?_
  exact isExecuting_complete h.engaged held rfl _ _ _ q

/-- A failed commit returns to COMPUTED while its channel is CALIBRATING, and closes the context otherwise (R151). -/
theorem cal_commitFailed_eq (s : State) (x : CalContext) :
    (s.commitFailed x).cal =
      if (s.chan x.channel).drive = .calibrating then some { x with phase := .computed } else none := by
  unfold State.commitFailed
  dsimp only
  split
  · rfl
  · rw [cal_complete, cal_notify]
    rfl

theorem sound_commitFailed {x : CalContext} (h : s.Sound) (held : s.cal = some x) (committing : x.phase = .committing) :
    (s.commitFailed x).Sound := by
  have chan := chan_commitFailed s x
  have same := sameBut_commitFailed s x
  have free : ∀ q, ((s.commitFailed x).port q).isExecuting = false := fun q => by
    unfold State.commitFailed
    dsimp only
    split
    · refine isExecuting_complete h.engaged held ?_ _ _ _ q
      rfl
    · refine isExecuting_complete h.engaged held ?_ _ _ _ q
      rw [ports_notify]
      rfl
  by_cases calibrating : (s.chan x.channel).drive = .calibrating
  · have cal := (cal_commitFailed_eq s x).trans (if_pos calibrating)
    have stays : ∀ c, (s.commitFailed x).chan c = s.chan c := fun c => by
      rw [chan, if_neg]
      rintro ⟨rfl, moved⟩
      exact moved calibrating
    obtain ⟨-, -, -, -, -, formed, -⟩ := h.context x held
    refine h.of_parts same (by simp) ?_ ?_ (h.engaged.recontext same (by simp)
      (fun c => by rw [stays]; exact .refl _) held cal ⟨rfl, rfl, rfl, rfl⟩ (fun _ => calibrating) ?_ ?_ fun q e => ?_)
    · exact ownersOpen_congr (fun c => by rw [stays]) (same .claims (by simp)) (.of_sessions (same .sessions (by simp)))
        h.owners
    · exact h.fitted.of_chans (same.bankOk (by simp)) (same.running (by simp)) fun c hc => by rwa [stays]
    · simpa [committing] using formed
    · simp [free]
    · exact absurd e (by simp [free])
  · have cal := (cal_commitFailed_eq s x).trans (if_neg calibrating)
    refine sound_closed h held same (by simp) cal
      (fun c => ⟨((s.chan c).force (s.bankOk c) (s.chan c).config.idleAction).calDefault, ?_⟩) free
    rw [chan]
    by_cases at_x : x.channel = c
    · subst at_x
      rw [if_pos ⟨rfl, calibrating⟩, if_pos rfl]
    · rw [if_neg fun both => at_x both.1, if_neg at_x]

end Calibration

end Sys2Proof.Machine

/-! # Every step keeps the drive sound -/

namespace Sys2Proof.Machine

/-! ## A tick that has been taken in full -/

section Settled

variable {s : State}

theorem not_stepDue_takeStep (s : State) : s.takeStep.stepDue = false := by
  cases due : s.stepDue
  · rw [takeStep_of_not_due due, due]
  · rw [takeStep_of_due due]
    rfl

theorem ticks_pos (m : Multiple) : 0 < m.ticks := by cases m <;> decide

theorem not_unitDue_takeUnit (s : State) : s.takeUnit.unitDue = false := by
  unfold State.takeUnit
  split
  · obtain ⟨-, timebase, -⟩ := countUnit_spec s.takeAllFlags
    have pos := ticks_pos s.takeAllFlags.timebase.multiple
    rw [State.unitDue, timebase]
    simpa using pos.ne'
  · next due => simpa using due

theorem not_waitsDue_takeClaimExpiry (s : State) : s.takeClaimExpiry.waitsDue = false := by
  unfold State.takeClaimExpiry
  split
  · rw [show _ = _ from sameBut_expireClaims _ .waitsDue (by simp)]
    rfl
  · next due => simpa using due

theorem not_leasesDue_takeLapse (s : State) : s.takeLapse.leasesDue = false := by
  unfold State.takeLapse
  split
  · rw [show _ = _ from sameBut_lapseSessions _ .leasesDue (by simp)]
    rfl
  · next due => simpa using due

/-- Once everything due has been taken, no engine step, no timer-unit event and no share of one waits. -/
theorem nothing_waits_settled (s : State) :
    s.settled.stepDue = false ∧ s.settled.unitDue = false ∧ s.settled.waitsDue = false ∧
      s.settled.leasesDue = false := by
  unfold State.settled
  split
  · next quiet =>
    obtain ⟨step, -, unit, waits, leases, -⟩ := (quiet_iff s).1 quiet
    exact ⟨step, unit, waits, leases⟩
  · unfold State.takeDue
    generalize s.takeAllFlags = u
    have step := not_stepDue_takeStep u
    generalize u.takeStep = v at step ⊢
    have fields : v.takeFieldEvents.stepDue = v.stepDue := sameBut_takeFieldEvents v .stepDue (by simp)
    generalize v.takeFieldEvents = w at fields ⊢
    have unit := not_unitDue_takeUnit w
    have units : w.takeUnit.stepDue = w.stepDue := sameBut_takeUnit w .stepDue (by simp)
    generalize w.takeUnit = x at unit units ⊢
    have expiries := sameBut_takeExpiries x 15
    generalize x.takeExpiries 15 = y at expiries ⊢
    have waits := not_waitsDue_takeClaimExpiry y
    have claims := sameBut_takeClaimExpiry y
    generalize y.takeClaimExpiry = z at waits claims ⊢
    have lapse := sameBut_takeLapse z
    have stepDue : z.takeLapse.stepDue = x.stepDue := by
      rw [lapse .stepDue (by simp), claims .stepDue (by simp), expiries .stepDue (by simp)]
    have timebase : z.takeLapse.timebase = x.timebase := by
      rw [lapse .timebase (by simp), claims .timebase (by simp), expiries .timebase (by simp)]
    refine ⟨stepDue.trans (units.trans (fields.trans step)), ?_, (lapse .waitsDue (by simp)).trans waits,
      not_leasesDue_takeLapse z⟩
    rw [State.unitDue, timebase]
    exact unit

/-- No session is marked as renewed once nothing waits for the session block. -/
theorem not_renewed_of_nothing_waits (h : s.RenewalsWait) (unit : s.unitDue = false) (leases : s.leasesDue = false)
    (p : Port) : s.renewed[p] = false := by
  by_contra marked
  rcases h p (by simpa using marked) with due | due
  · simp [unit] at due
  · simp [leases] at due

end Settled

/-! ## Every move, every step -/

section Moves

variable {s t : State}

theorem sound_inert (h : s.Sound)
    (same : t = { s with
      ceilings := t.ceilings, store := t.store, timebase := t.timebase, starting := t.starting
      resetAsserted := t.resetAsserted, stepDue := t.stepDue })
    (timebase : t.timebase = { s.timebase with tickCount := t.timebase.tickCount, hold := t.timebase.hold })
    (later : s.timebase.tickCount ≤ t.timebase.tickCount) : t.Sound := by
  have same := Moves.sameBut_inert same
  have multiple : t.timebase.multiple = s.timebase.multiple := by rw [timebase]
  refine sound_of_parts
    (ownersOpen_congr (fun c => by rw [same.chan (by simp)]) (same .claims (by simp))
      (.of_sessions (same .sessions (by simp))) h.owners)
    (h.fitted.sameBut same (by simp)) (h.engaged.sameBut same (by simp))
    (leasesRunning_congr (same.session (by simp)) h.leases) fun p marked => ?_
  rw [show t.renewed = s.renewed from same .renewed (by simp)] at marked
  rw [show t.leasesDue = s.leasesDue from same .leasesDue (by simp)]
  refine (h.renewals p marked).imp_left fun due => ?_
  rw [State.unitDue, decide_eq_true_eq] at due ⊢
  rw [multiple]
  exact due.trans later

theorem sound_port (h : s.Sound) (p : Port) (k : PortState → PortState)
    (kept : (k (s.port p)).isExecuting = (s.port p).isExecuting) : (s.modPort p k).Sound := by
  have same := sameBut_modPort (s := s) (p := p) k
  refine h.of_parts same (by simp)
    (ownersOpen_congr (fun c => by rw [same.chan (by simp)]) (same .claims (by simp))
      (.of_sessions (same .sessions (by simp))) h.owners)
    (h.fitted.sameBut same (by simp)) ?_
  refine h.engaged.of_named (same .cal (by simp)) (fun x _ => by rw [same.chan (by simp)]; exact .refl _ _)
    (fun c drive => by rwa [same.chan (by simp)] at drive)
    (fun x _ idle => by rw [same.session (by simp)]; exact ⟨idle, rfl⟩) (fun q => ?_)
  rw [isExecuting_modPort]
  split
  · next e => rw [kept, e]
  · rfl

theorem sound_countWaits (h : s.Sound) : s.countWaits.Sound :=
  have same := sameBut_countWaits s
  sound_claims h same (by simp)
    (ownersOpen_countWaits h.owners (fun c => by rw [same.chan (by simp)]) rfl (.of_sessions rfl))

/-- Every move keeps the drive sound. -/
theorem Move.keeps_sound (m : Move s t) (h : s.Sound) : t.Sound := by
  cases m with
  | port p k kept => exact sound_port h p k kept
  | inert same timebase later => exact sound_inert h same timebase later
  | notify p b => exact h.sameBut (sameBut_notify s p b) (by simp)
  | monitor field loop => exact sound_monitor h field loop
  | flags n => exact sound_mapChans h (fun c => kept_flagsTaken _ n c) fun c run fits => fits_flagsTaken fits n c
  | engine => exact sound_mapChans h (fun c => kept_tick _ _) fun c run fits => fits_tick fits _
  | loseField b => exact sound_fieldLost h
  | restoreField b lost => exact sound_fieldRestored h lost
  | countUnit => exact sound_countUnit h
  | expire n =>
    refine sound_mapChans h (fun c => ?_) fun c run fits => ?_
    · split
      · next due => exact kept_expire (Bool.and_eq_true_iff.1 due).1
      · exact .refl _
    · split
      · next due => exact fits_expire fits (Bool.and_eq_true_iff.1 due).1
      · exact fits
  | countWaits => exact sound_countWaits h
  | dropClaims keep l => exact sound_dropClaims h keep l
  | lapse => exact sound_lapse h
  | openAs p priority lease closed leased => exact sound_openAs h priority lease closed leased
  | close p _ free => exact sound_close h free
  | clear p closed => exact sound_clearSession h closed
  | refresh p opened => exact sound_refreshLease h opened
  | goRun p idle free => exact sound_goRun h idle free
  | goIdle p run => exact sound_goIdle h run
  | take p set opened _ uncalibrated => exact (sound_take h opened uncalibrated).grantPass
  | queueClaim p a opened _ _ _ => exact sound_queueClaim h a opened
  | release p set _ uncalibrated => exact (sound_freeSet h uncalibrated).grantPass
  | storeTargets l => exact sound_storeTargets h l
  | configure p c k passes _ => exact sound_configure h passes
  | dropNotes p n _ =>
    refine h.sameBut (l := [.queues]) (fun y hy => ?_) (by simp)
    cases y <;> simp [Part.Same] at hy ⊢
  | beginCal p b x passes => exact sound_beginCal h passes
  | setCal x phase computed held before after formed => exact sound_setCal h held before after formed
  | measure x v point held => exact sound_measure h v point held
  | commit x seq held computed => exact sound_commit h seq held computed
  | abort x held working => exact sound_abort h held working
  | commitDone x held _ => exact sound_commitDone h held
  | commitFailed x held committing => exact sound_commitFailed h held committing

theorem sameBut_setTimebase (s : State) (period : Period) (multiple : Multiple) :
    SameBut [.timebase] s (s.setTimebase period multiple) := by
  intro y hy
  cases y <;> simp at hy <;> rfl

/-- New parameters are set where nothing waits for the session block (R160). -/
theorem sound_setTimebase (h : s.Sound) (period : Period) (multiple : Multiple) (unit : s.unitDue = false)
    (leases : s.leasesDue = false) : (s.setTimebase period multiple).Sound := by
  have same := sameBut_setTimebase s period multiple
  refine sound_of_parts
    (ownersOpen_congr (fun c => by rw [same.chan (by simp)]) (same .claims (by simp))
      (.of_sessions (same .sessions (by simp))) h.owners)
    (h.fitted.sameBut same (by simp)) (h.engaged.sameBut same (by simp))
    (leasesRunning_congr (same.session (by simp)) h.leases) fun p marked => ?_
  rw [show (s.setTimebase period multiple).renewed = s.renewed from same .renewed (by simp),
    not_renewed_of_nothing_waits h.renewals unit leases p] at marked
  cases marked

theorem chan_resetWith_fits : Chan.reset.Fits false false where
  off := by simp [Chan.reset]
  fields := show _ ∧ _ from ⟨rfl, rfl, rfl, fun _ e => (by cases e), fun _ => rfl⟩
  allowed := off_mem_drivesAllowed _ _

/-- After RESET every channel is OFF without an owner, and every session CLOSED. -/
theorem sound_resetWith (store : Vector (Vector Cell 4) 16) (l : List Instr) : (State.resetWith store l).Sound := by
  refine sound_of_parts (arbitrated_resetWith store l).owners (fun c => ?_)
    (engaged_closed (cal_resetWith _ _) (fun c => ?_) fun p => ?_) (fun p opened => ?_) (renewalsWait_of_cleared rfl)
  · rw [State.bankOk, bank_resetWith, chan_resetWith]
    exact chan_resetWith_fits
  · rw [chan_resetWith]
    simp [Chan.reset]
  · rw [port_resetWith]
    rfl
  · rw [sessionOpen_resetWith] at opened
    cases opened

end Moves

theorem sound_pending {s : State} (h : s.Sound) (l : List Instr) : State.Sound { s with pending := l } := by
  refine h.sameBut (l := [.pending]) (fun y hy => ?_) (by simp)
  cases y <;> simp [Part.Same] at hy ⊢

/-- Settles O58: RESET takes every channel OFF, every other command is a chain of moves, and TIMEBASE WRITE sets its
parameters when nothing waits. -/
theorem driveStaysSound : Obligations.DriveStaysSound := by
  intro s t sound next
  refine step_keeps (fun _ l h => sound_pending h l) ?_ (fun _ _ => Move.keeps_sound) (fun s period multiple _ h => ?_)
    sound next
  · rintro s done t ⟨⟩
    exact sound_resetWith _ _
  · obtain ⟨-, unit, -, leases⟩ := nothing_waits_settled s
    exact sound_setTimebase h period multiple unit leases

end Sys2Proof.Machine

/-! # Every value stays within the limits of its range (R3, R5, R73) -/

namespace Sys2Proof.Machine

/-! ## Values -/

section Values

variable {g : Range} {v w : Int}

theorem admits_iff_limits : g.admits v ↔ g.lower ≤ v ∧ v ≤ g.upper := by simp [Range.admits]

theorem lower_le_upper (g : Range) : g.lower ≤ g.upper := by
  cases g with
  | off => simp [Range.lower, Range.upper]
  | driving d => cases d <;> simp [Range.lower, Range.upper, DriveRange.lower]

theorem admits_zero (g : Range) : g.admits 0 := by
  cases g with
  | off => simp [Range.admits, Range.lower, Range.upper]
  | driving d => cases d <;> simp [Range.admits, Range.lower, Range.upper, DriveRange.lower]

theorem admits_clamp (g : Range) (v : Int) : g.admits (clampInt g.lower g.upper v) := by
  have := lower_le_upper g
  rw [admits_iff_limits, clampInt]
  omega

theorem admits_rawPoint (d : DriveRange) (point : CalPoint) : (Range.driving d).admits (d.rawPoint point) := by
  cases d <;> cases point <;> decide

/-- A move toward a value ends between the two. -/
theorem admits_moveToward (n : Nat) (hv : g.admits v) (hw : g.admits w) : g.admits (moveToward n v w) := by
  rw [admits_iff_limits] at hv hw ⊢
  unfold moveToward
  split
  · exact hw
  · split <;> omega

end Values

/-! ## One channel -/

section Channel

variable {r t : Chan} {ok run : Bool}

/-- The applied value is new, the target stays or goes, and what is held is the applied value or was held. -/
theorem Chan.WithinRange.of_applied (h : r.WithinRange) (config : t.config = r.config)
    (applied : r.config.range.admits t.applied) (target : t.target = r.target ∨ t.target = none)
    (held : ∀ v, t.held = some v → v = t.applied ∨ r.held = some v) : t.WithinRange := by
  obtain ⟨bounds, -, targets, holds⟩ := h
  refine ⟨by rwa [config], by rwa [config], fun v hv => ?_, fun v hv => ?_⟩
  · rw [config]
    rcases target with same | none
    · exact targets v (same.symm.trans hv)
    · simp [none] at hv
  · rw [config]
    rcases held v hv with rfl | was
    · exact applied
    · exact holds v was

/-- Only other fields change. -/
theorem Chan.WithinRange.congr (h : r.WithinRange) (config : t.config = r.config) (applied : t.applied = r.applied)
    (target : t.target = r.target) (held : t.held = r.held ∨ t.held = none) : t.WithinRange := by
  refine h.of_applied config (by rw [applied]; exact h.2.1) (.inl target) fun v hv => .inr ?_
  rcases held with same | none
  · exact same.symm.trans hv
  · simp [none] at hv

theorem admits_actionValue (h : r.WithinRange) (a : Action) : r.config.range.admits (r.actionValue a) := by
  obtain ⟨bounds, applied, -⟩ := h
  obtain ⟨-, -, -, -, -, -, safe, -⟩ := inBounds_iff.1 bounds
  cases a with
  | hold => exact applied
  | zero => exact admits_zero _
  | safe => exact safe

theorem within_force (h : r.WithinRange) (a : Action) : (r.force ok a).WithinRange := by
  unfold Chan.force
  split
  · exact h
  · split
    · refine h.of_applied rfl (admits_actionValue h a) (.inl rfl) fun v hv => .inl ?_
      by_cases e : a = .hold
      · rw [if_pos e] at hv
        exact (Option.some.inj hv).symm
      · rw [if_neg e] at hv
        cases hv
    · exact h.congr rfl rfl rfl (.inl rfl)

theorem within_handover (h : r.WithinRange) : (r.handover ok).WithinRange := by
  unfold Chan.handover
  split
  · exact h
  · exact h.of_applied rfl h.2.1 (.inl rfl) fun v hv => .inl (Option.some.inj hv).symm

theorem within_enter (h : r.WithinRange) : (Chan.enter run ok r).WithinRange := by
  unfold Chan.enter
  split
  · exact within_handover h
  · exact within_force h _

theorem within_grant (h : r.WithinRange) (p : Port) : (r.grant p run ok).WithinRange :=
  within_enter (h.of_applied rfl h.2.1 (.inr rfl) fun _ hv => .inr hv)

theorem within_release (h : r.WithinRange) (a : Action) : (r.release ok a).WithinRange :=
  (within_force h a).congr rfl rfl rfl (.inl rfl)

theorem within_fieldLoss (h : r.WithinRange) : r.fieldLoss.WithinRange :=
  h.of_applied rfl (admits_zero _) (.inl rfl) fun _ hv => by cases hv

theorem within_restore (h : r.WithinRange) : (r.restore run).WithinRange := by
  unfold Chan.restore
  split
  · exact within_enter h
  · split <;> exact within_force h _

theorem within_ramp {v : Int} (h : r.WithinRange) (hv : r.config.range.admits v) : (r.ramp v).WithinRange := by
  rcases ramp_cases r v with e | e <;> rw [e]
  · exact h.of_applied rfl hv (.inl rfl) fun _ none => by cases none
  · exact h.of_applied rfl (admits_moveToward _ h.2.1 hv) (.inl rfl) fun _ hw => .inr hw

theorem within_startRamp (h : r.WithinRange) : r.startRamp.WithinRange := h.congr rfl rfl rfl (.inr rfl)

/-- A step of the engine, where the context gives its channel a value of its range (R82). -/
theorem within_tick {v : Option Int} (h : r.WithinRange)
    (cal : r.drive = .calibrating → ∀ w, v = some w → r.config.range.admits w) : (r.tick v).WithinRange := by
  have applied := h.2.1
  have targets := h.2.2.1
  unfold Chan.tick
  split
  case h_4 d t drive target =>
    have reached : (r.arrive t).WithinRange :=
      h.of_applied rfl (targets t target) (.inl rfl) fun _ none => by cases none
    split
    · exact reached
    · split
      · exact reached
      · exact h
    · exact within_ramp (within_startRamp h) (targets t target)
  case h_5 d t drive target => exact within_ramp h (targets t target)
  case h_7 d t drive target =>
    split
    · exact h.of_applied rfl (targets t target) (.inl rfl) fun _ hw => .inr hw
    · exact h.of_applied rfl (admits_moveToward _ applied (targets t target)) (.inl rfl) fun _ hw => .inr hw
  case h_9 d t drive =>
    refine h.of_applied rfl ?_ (.inl rfl) fun _ hw => .inr hw
    cases v with
    | none => exact applied
    | some w => exact cal drive w rfl
  all_goals exact h

theorem within_expire (h : r.WithinRange) : r.expire.WithinRange := by
  unfold Chan.expire
  split
  · exact within_startRamp h
  all_goals exact h.congr rfl rfl rfl (.inl rfl)

theorem within_countTimer (h : r.WithinRange) : r.countTimer.WithinRange := by
  unfold Chan.countTimer
  split
  · exact h.congr rfl rfl rfl (.inl rfl)
  · exact h

theorem within_sample (h : r.WithinRange) (high : Bool) (loop : Int) : (r.sample high loop).WithinRange := by
  unfold Chan.sample
  split
  · exact h
  · exact h.congr rfl rfl rfl (.inl rfl)

theorem within_flagsTaken (h : r.WithinRange) (n : Nat) (c : Channel) : (r.flagsTaken n c).WithinRange := by
  have load : ∀ x : Chan, x.WithinRange → x.flipOpenLoad.WithinRange := fun x hx => hx.congr rfl rfl rfl (.inl rfl)
  have deviation : ∀ x : Chan, x.WithinRange → x.flipDeviation.WithinRange :=
    fun x hx => hx.congr rfl rfl rfl (.inl rfl)
  unfold Chan.flagsTaken
  dsimp only
  split <;> split
  · exact deviation _ (load _ h)
  · exact load _ h
  · exact deviation _ h
  · exact h

/-- A configuration record of the same range (R12). -/
theorem within_config {k : ChanConfig} (h : r.WithinRange) (bounds : k.inBounds) (range : k.range = r.config.range) :
    ({ r with config := k } : Chan).WithinRange := by
  obtain ⟨-, applied, targets, holds⟩ := h
  refine ⟨bounds, ?_, fun v hv => ?_, fun v hv => ?_⟩
  · rwa [range]
  · rw [range]
    exact targets v hv
  · rw [range]
    exact holds v hv

theorem within_changeRange {k : ChanConfig} {d : Bool}
    (bounds : k.inBounds) : (r.changeRange k d run ok).WithinRange := by
  have cleared : (r.rangeCleared k d).WithinRange :=
    ⟨bounds, admits_zero _, fun _ none => (by cases none), fun _ none => (by cases none)⟩
  unfold Chan.changeRange
  split
  · exact within_enter cleared
  · exact cleared

end Channel

/-! ## The state -/

section State

variable {s t : State}

/-- Channels that change and stay within, under the same context. -/
theorem State.ValuesWithin.of_chans (h : s.ValuesWithin) (cal : t.cal = s.cal)
    (chan : ∀ c, (s.chan c).WithinRange → (t.chan c).WithinRange) : t.ValuesWithin :=
  ⟨fun c => chan c (h.1 c), fun x hx => h.2 x (cal.symm.trans hx)⟩

theorem State.ValuesWithin.sameBut {l : List Part} (h : s.ValuesWithin) (same : SameBut l s t)
    (n : Part.chans ∉ l ∧ Part.cal ∉ l) : t.ValuesWithin :=
  h.of_chans (same .cal n.2) fun c hc => by rwa [same.chan n.1]

theorem State.ValuesWithin.mapChans {f : Channel → Chan → Chan} (h : s.ValuesWithin)
    (chan : ∀ c, (s.chan c).WithinRange → (f c (s.chan c)).WithinRange) : (s.mapChans f).ValuesWithin :=
  h.of_chans rfl fun c hc => by
    rw [chan_mapChans]
    exact chan c hc

theorem State.ValuesWithin.grantPass (h : s.ValuesWithin) : s.grantPass.ValuesWithin := by
  refine h.of_chans (cal_grantPass s) fun c hc => ?_
  rcases chan_grantPass_cases s c with ⟨k, -, -, e, -⟩ | ⟨o, e, -⟩ <;> rw [e]
  · exact within_grant hc _
  · exact hc.congr rfl rfl rfl (.inl rfl)

/-- The context closes, or stays as it is. -/
theorem State.ValuesWithin.of_closed (h : s.ValuesWithin) (cal : t.cal = s.cal ∨ t.cal = none)
    (chan : ∀ c, (s.chan c).WithinRange → (t.chan c).WithinRange) : t.ValuesWithin := by
  refine ⟨fun c => chan c (h.1 c), fun x hx => ?_⟩
  rcases cal with same | none
  · exact h.2 x (same.symm.trans hx)
  · simp [none] at hx

theorem State.ValuesWithin.withdraw {who : Port → Bool} {pick : ChanConfig → Action} (h : s.ValuesWithin) :
    (s.withdraw who pick).ValuesWithin := by
  refine ⟨fun c => ?_, fun x hx => h.2 x (Option.filter_eq_some_iff.1 hx).1⟩
  have within := h.1 c
  rw [chan_withdraw]
  split
  · split
    · exact within_release within _
    · exact within
  all_goals exact within

theorem State.ValuesWithin.lapseSessions (h : s.ValuesWithin) : s.lapseSessions.ValuesWithin := by
  rcases lapseSessions_cases s with ⟨none, -⟩ | same
  · rw [none]
    exact h
  · exact (State.ValuesWithin.grantPass (h.withdraw.sameBut sameBut_withdraw_lapseWithdrawn (by simp))).sameBut same
      (by simp)

/-- What the phase of the context gives its channel lies within its range (R82). -/
theorem admits_driven (h : s.ValuesWithin) {x : CalContext} (held : s.cal = some x) (phase : CalPhase)
    (computed : Option Coeff) :
    (Range.driving x.range).admits (CalContext.driven { x with phase, computed }) := by
  cases phase with
  | low | high => exact admits_rawPoint _ _
  | opened | computed | committing => exact h.2 x held

/-- The engine's step gives no channel a value outside its range. -/
theorem within_engine (sound : s.Sound) (h : s.ValuesWithin) :
    (s.mapChans fun c r => r.tick (s.calValue c)).ValuesWithin := by
  refine h.mapChans fun c hc => within_tick hc fun drive w hw => ?_
  obtain ⟨x, held, rfl⟩ := calNames_iff.1 (sound.named c drive)
  obtain ⟨-, range, -⟩ := sound.context x held
  have driven := admits_driven h held x.phase x.computed
  rw [State.calValue, held] at hw
  simp only [if_true, Option.some.injEq] at hw
  rw [range, ← hw]
  exact driven

theorem within_storeTargets (h : s.ValuesWithin) (l : List (Channel × Int)) : (s.storeTargets l).ValuesWithin := by
  refine h.of_chans (sameBut_storeTargets s l .cal (by simp)) fun c hc => ?_
  rw [chan_storeTargets]
  split
  · obtain ⟨bounds, applied, -, holds⟩ := hc
    refine ⟨bounds, applied, fun v hv => ?_, holds⟩
    cases hv
    exact admits_clamp _ _
  · exact hc

/-- Every move keeps the values within their ranges. -/
theorem Move.keeps_valuesWithin (m : Move s t) (sound : s.Sound) (h : s.ValuesWithin) : t.ValuesWithin := by
  cases m with
  | port p k _ => exact h.sameBut (sameBut_modPort k) (by simp)
  | inert same _ _ => exact h.sameBut (Moves.sameBut_inert same) (by simp)
  | notify p b => exact h.sameBut (sameBut_notify s p b) (by simp)
  | monitor field loop =>
    refine h.of_chans (sameBut_monitor s field loop .cal (by simp)) fun c hc => ?_
    rw [chan_monitor]
    exact within_sample hc _ _
  | flags n => exact h.mapChans fun c hc => within_flagsTaken hc n c
  | engine => exact within_engine sound h
  | loseField b =>
    refine h.of_closed ?_ fun c hc => ?_
    · rw [cal_fieldLost]
      split
      · exact .inr rfl
      · exact .inl rfl
    · rw [chan_fieldLost]
      split
      · exact within_fieldLoss hc
      · exact hc
  | restoreField b _ =>
    refine h.of_chans (sameBut_fieldRestored s b .cal (by simp)) fun c hc => ?_
    rw [chan_fieldRestored]
    split
    · exact within_restore hc
    · exact hc
  | countUnit =>
    obtain ⟨chans, -, -, -, -, -, -, same⟩ := countUnit_spec s
    refine h.of_chans (same .cal (by simp)) fun c hc => ?_
    rw [chans]
    exact within_countTimer hc
  | expire n =>
    refine h.mapChans fun c hc => ?_
    split
    · exact within_expire hc
    · exact hc
  | countWaits => exact h.sameBut (sameBut_countWaits s) (by simp)
  | dropClaims keep l =>
    have fewer : State.ValuesWithin { s with claims := s.claims.filter keep } := ⟨h.1, h.2⟩
    exact (fewer.sameBut (sameBut_notifyAll _ l) (by simp)).grantPass
  | lapse => exact (h.sameBut (sameBut_countLeases s) (by simp)).lapseSessions
  | openAs p priority lease _ _ => exact h.sameBut (sameBut_openAs s p priority lease) (by simp)
  | close p _ _ => exact h.withdraw.grantPass.sameBut (sameBut_clearSession _ p) (by simp)
  | clear p _ => exact h.sameBut (sameBut_clearSession s p) (by simp)
  | refresh p _ => exact h.sameBut (sameBut_refreshLease s p) (by simp)
  | goRun p _ _ =>
    refine h.of_chans (sameBut_goRun s p .cal (by simp)) fun c hc => ?_
    rw [chan_goRun]
    split
    · exact within_handover hc
    · exact hc
  | goIdle p _ =>
    refine h.of_chans (sameBut_goIdle s p .cal (by simp)) fun c hc => ?_
    rw [chan_goIdle]
    split
    · exact within_force hc _
    · exact hc
  | take p set _ _ _ =>
    refine (h.of_chans (sameBut_take set .cal (by simp)) fun c hc => ?_).grantPass
    rw [chan_grant_revoke]
    split
    · split
      · exact within_grant (within_release hc _) _
      · exact within_grant hc _
    · exact hc
  | queueClaim p a _ _ _ _ => exact State.ValuesWithin.grantPass ⟨h.1, h.2⟩
  | release p set _ _ =>
    refine (h.mapChans fun c hc => ?_).grantPass
    split
    · exact within_release hc _
    · exact hc
  | storeTargets l => exact within_storeTargets h l
  | configure p c₀ k _ bounds =>
    refine h.of_chans (sameBut_configure s p c₀ k .cal (by simp)) fun c hc => ?_
    rw [chan_configure]
    split
    · next e =>
      subst e
      split
      · next range => exact within_config hc bounds range
      · exact within_changeRange bounds
    · exact hc
  | dropNotes p n _ => exact ⟨h.1, h.2⟩
  | beginCal p b x passes =>
    obtain ⟨-, -, -, -, range, fields⟩ := beginCheck_ok passes
    refine ⟨fun c => ?_, fun y hy => ?_⟩
    · rw [chan_beginCal]
      split
      · next e =>
        subst e
        exact (h.1 _).congr rfl rfl rfl (.inr rfl)
      · exact h.1 c
    · cases hy
      have applied := (h.1 x.channel).2.1
      rw [range] at applied
      rw [fields]
      exact applied
  | setCal x phase computed held _ _ _ =>
    obtain ⟨-, range, -⟩ := sound.context x held
    refine ⟨fun c => ?_, fun y hy => ?_⟩
    · rw [chan_setCal]
      split
      · next e =>
        subst e
        refine (h.1 _).of_applied rfl ?_ (.inl rfl) fun _ hv => .inr hv
        rw [range]
        exact admits_driven h held phase computed
      · exact h.1 c
    · cases hy
      exact h.2 x held
  | measure x v point held =>
    refine ⟨h.1, fun y hy => ?_⟩
    cases hy
    cases point <;> exact h.2 x held
  | commit x seq held _ =>
    refine ⟨h.1, fun y hy => ?_⟩
    cases hy
    exact h.2 x held
  | abort x _ _ =>
    refine h.of_closed (.inr rfl) fun c hc => ?_
    rw [chan_closeCal]
    split
    · next e =>
      subst e
      exact within_force hc _
    · exact hc
  | commitDone x _ _ =>
    refine h.of_closed (.inr rfl) fun c hc => ?_
    rw [chan_commitDone]
    split
    · exact (within_force hc _).congr rfl rfl rfl (.inl rfl)
    · exact hc
  | commitFailed x held _ =>
    refine ⟨fun c => ?_, fun y hy => ?_⟩
    · rw [chan_commitFailed]
      split
      · exact within_force (h.1 c) _
      · exact h.1 c
    · rw [cal_commitFailed_eq] at hy
      split at hy <;> cases hy
      exact h.2 x held

end State

theorem within_reset : Chan.reset.WithinRange :=
  ⟨by decide, admits_zero _, fun _ none => (by cases none), fun _ none => (by cases none)⟩

theorem valuesWithin_resetWith (store : Vector (Vector Cell 4) 16) (l : List Instr) :
    (State.resetWith store l).ValuesWithin := by
  refine ⟨fun c => ?_, fun x hx => ?_⟩
  · rw [chan_resetWith]
    exact within_reset
  · simp at hx

/-- Settles O59, together with the soundness of the drive: the context's range is that of its channel. -/
theorem valuesStayWithinRange : Obligations.ValuesStayWithinRange := by
  intro s t sound within next
  refine And.right (step_keeps (I := fun s => s.Sound ∧ s.ValuesWithin) (fun s l h => ⟨?_, h.2.1, h.2.2⟩) ?_
    (fun _ _ m h => ⟨m.keeps_sound h.1, m.keeps_valuesWithin h.1 h.2⟩)
    (fun s period multiple _ h => ⟨?_, h.2.1, h.2.2⟩) ⟨sound, within⟩ next)
  · exact sound_pending h.1 l
  · rintro s done t ⟨⟩
    exact ⟨sound_resetWith _ _, valuesWithin_resetWith _ _⟩
  · obtain ⟨-, unit, -, leases⟩ := nothing_waits_settled s
    exact sound_setTimebase h.1 period multiple unit leases

end Sys2Proof.Machine

/-! # Rules of the whole part: RESET, the locked parameters, requests and their bounds -/

namespace Sys2Proof.Machine

/-! ## Steps and RESET -/

/-- Settles O1. -/
theorem stepTakesFront : Obligations.StepTakesFront := by
  refine ⟨fun i rest s pending => ?_, fun s pending => ?_⟩ <;> rw [step, pending]

/-- Settles O60: RESET's state meets each invariant whatever the store holds. -/
theorem resetMeetsInvariants : Obligations.ResetMeetsInvariants := by
  have reset := resetWith_reset
  exact ⟨reset ▸ queuesBounded_resetWith _ _, reset ▸ arbitrated_resetWith _ _, reset ▸ sound_resetWith _ _,
    reset ▸ valuesWithin_resetWith _ _⟩

section Reset

variable (s : State) (done : Bool)

/-- The slots after RESET: those of the commit in progress as its operand says, the others as they were (R147, R154). -/
theorem slots_storeAfterReset (l : List Instr) (c : Channel) (d : DriveRange) :
    ((State.resetWith (s.storeAfterReset done) l).cell c d).slots =
      match s.committing with
      | some x =>
        if x.channel = c ∧ x.range = d then ((s.cell x.channel x.range).write x.channel x.range x.record done).slots
        else (s.cell c d).slots
      | none => (s.cell c d).slots := by
  have stored : ∀ t : State,
      (((t.store.map fun row : Vector Cell 4 => row.map fun k : Cell =>
        { k with newer := none, effect := .default })[c])[d.place]).slots = (t.cell c d).slots :=
          fun t => by simp [State.cell]
  unfold State.storeAfterReset
  refine (stored _).trans ?_
  cases s.committing with
  | none => rfl
  | some x =>
    simp only [cell_modCell]
    split <;> rfl

/-- The slot that a write leaves: the next generation, with a check word that agrees when the write is good (R149). -/
theorem write_slots (k : Cell) (c : Channel) (d : DriveRange) (record : Coeff) (good : Bool) :
    let generation := match k.newer with | some i => k.slots[i].generation + 1 | none => 1
    let agreeing := Config.checkWord c d.place generation record.gain record.offset
    ∃ check, (good = true → check = agreeing) ∧ (good = false → check ≠ agreeing) ∧
      (k.write c d record good).slots =
        k.slots.set (if k.newer = some 0 then 1 else 0 : Fin 2)
          { channel := c, range := d, generation := generation, coeff := record, check := check } := by
  have older := older_eq k
  refine ⟨if good then (k.writtenSlot c d record).check else (k.writtenSlot c d record).disagreeing, fun e => ?_,
    fun e => ?_, ?_⟩
  · rw [if_pos e]
    rfl
  · rw [if_neg (by simp [e])]
    exact Slot.disagreeing_ne _
  · unfold Cell.write
    simp only [older]
    cases good <;> rfl

end Reset

/-- Settles O3. -/
theorem resetTakesResetValues : Obligations.ResetTakesResetValues := by
  intro done s
  refine ⟨_, exec_reset done s, fun c => chan_resetWith _ _ c, rfl, rfl, rfl, rfl, fun p => session_resetWith _ _ p,
    fun b => bank_resetWith _ _ b, rfl, rfl, rfl, rfl, fun p => queue_resetWith _ _ p, fun p => port_resetWith _ _ p,
    fun c d other => ?_, fun x k held committing computed => ?_⟩
  · rw [slots_storeAfterReset]
    split
    · next x writing =>
      obtain ⟨held, committing⟩ := committing_some writing
      rw [if_neg (other x held committing)]
    · rfl
  · have slots := slots_storeAfterReset s done s.pending x.channel x.range
    have record : x.record = k := by simp [CalContext.record, computed]
    simp only [committing_eq_some held committing, and_self, if_true, record] at slots
    obtain ⟨check, agrees, differs, written⟩ := write_slots (s.cell x.channel x.range) x.channel x.range k done
    exact ⟨check, agrees, differs, slots.trans written⟩

/-! ## What no move changes -/

section Steady

variable {s t u : State}

/-- The parameters of the timebase and the commands that wait are the same. -/
structure Steady (s t : State) : Prop where
  period : t.timebase.period = s.timebase.period
  multiple : t.timebase.multiple = s.timebase.multiple
  pending : t.pending = s.pending

theorem Steady.refl (s : State) : Steady s s := ⟨rfl, rfl, rfl⟩

theorem Steady.trans (h : Steady s t) (k : Steady t u) : Steady s u :=
  ⟨k.period.trans h.period, k.multiple.trans h.multiple, k.pending.trans h.pending⟩

theorem Steady.of_sameBut {l : List Part} (same : SameBut l s t) (n : Part.timebase ∉ l ∧ Part.pending ∉ l) :
    Steady s t := by
  have timebase : t.timebase = s.timebase := same .timebase n.1
  exact ⟨by rw [timebase], by rw [timebase], same .pending n.2⟩

/-- No move sets the parameters or takes a command. -/
theorem Move.steady (m : Move s t) : Steady s t := by
  cases m with
  | port p k _ => exact .of_sameBut (sameBut_modPort k) (by simp)
  | inert same timebase _ =>
    exact ⟨by rw [timebase], by rw [timebase], Moves.sameBut_inert same .pending (by simp)⟩
  | notify p b => exact .of_sameBut (sameBut_notify s p b) (by simp)
  | monitor field loop => exact .of_sameBut (sameBut_monitor s field loop) (by simp)
  | flags | engine | expire => exact .of_sameBut (sameBut_mapChans s _) (by simp)
  | loseField b => exact .of_sameBut (sameBut_fieldLost s b) (by simp)
  | restoreField b _ => exact .of_sameBut (sameBut_fieldRestored s b) (by simp)
  | countUnit =>
    obtain ⟨-, timebase, -, -, -, -, -, same⟩ := countUnit_spec s
    exact ⟨by rw [timebase], by rw [timebase], same .pending (by simp)⟩
  | countWaits => exact .of_sameBut (sameBut_countWaits s) (by simp)
  | dropClaims keep l =>
    exact (Steady.mk (s := s) (t := { s with claims := s.claims.filter keep }) rfl rfl rfl).trans
      ((Steady.of_sameBut (sameBut_notifyAll _ l) (by simp)).trans (.of_sameBut (sameBut_grantPass _) (by simp)))
  | lapse =>
    exact (Steady.of_sameBut (sameBut_countLeases s) (by simp)).trans (.of_sameBut (sameBut_lapseSessions _) (by simp))
  | openAs p priority lease _ _ => exact .of_sameBut (sameBut_openAs s p priority lease) (by simp)
  | close p _ _ =>
    exact (Steady.of_sameBut (sameBut_withdraw s _ _) (by simp)).trans
      ((Steady.of_sameBut (sameBut_grantPass _) (by simp)).trans (.of_sameBut (sameBut_clearSession _ p) (by simp)))
  | clear p _ => exact .of_sameBut (sameBut_clearSession s p) (by simp)
  | refresh p _ => exact .of_sameBut (sameBut_refreshLease s p) (by simp)
  | goRun p _ _ => exact .of_sameBut (sameBut_goRun s p) (by simp)
  | goIdle p _ => exact .of_sameBut (sameBut_goIdle s p) (by simp)
  | take p set _ _ _ =>
    exact (Steady.of_sameBut (sameBut_take set) (by simp)).trans (.of_sameBut (sameBut_grantPass _) (by simp))
  | queueClaim p a _ _ _ _ =>
    exact (Steady.mk (s := s)
      (t := { s with claims := insertClaim (s.newClaim p a) s.claims, arrivals := s.arrivals + 1 }) rfl rfl rfl).trans
      (.of_sameBut (sameBut_grantPass _) (by simp))
  | release p set _ _ =>
    exact (Steady.of_sameBut (sameBut_mapChans s _) (by simp)).trans (.of_sameBut (sameBut_grantPass _) (by simp))
  | storeTargets l => exact .of_sameBut (sameBut_storeTargets s l) (by simp)
  | configure p c k _ _ => exact .of_sameBut (sameBut_configure s p c k) (by simp)
  | dropNotes | measure | commit => exact ⟨rfl, rfl, rfl⟩
  | beginCal p b x _ => exact .of_sameBut (sameBut_beginCal s x) (by simp)
  | setCal => exact .of_sameBut (sameBut_setCal s _) (by simp)
  | abort => exact .of_sameBut (sameBut_closeCal s _) (by simp)
  | commitDone x _ _ => exact .of_sameBut (sameBut_commitDone s x) (by simp)
  | commitFailed x _ _ => exact .of_sameBut (sameBut_commitFailed s x) (by simp)

theorem Moves.steady (h : Moves s t) : Steady s t :=
  h.keeps (I := Steady s) (fun _ _ m k => k.trans m.steady) (.refl s)

/-- Every command answers a next state (R176). -/
theorem exec_next (i : Instr) (s : State) : ∃ t, exec i s = .next t := by
  have ite : ∀ (P : Prop) [Decidable P] (u v : State),
      ∃ t, (if P then .next u else .next v : Host.Outcome State Fault Refusal) = .next t := by
    intro P _ u v
    split <;> exact ⟨_, rfl⟩
  cases q : requestOf i with
  | some r =>
    obtain ⟨α, refusal, operands, run, next⟩ := exec_request q
    exact ⟨_, next s⟩
  | none =>
    cases i with
    | resetEnd | startUpLoadCompletion | frameError | handoverTimerExpiry | openLoadFlagChange | deviationFlagChange
    | holdAssertion | holdRelease | crcErrorFrame => exact ite _ _ _
    | reset | fetch | responseClockedOut | updateTick | timerUnitEvent | lapse | claimWaitExpiry | fieldLoss
    | fieldRestore | commitCompletion => exact ⟨_, rfl⟩
    | _ => simp [requestOf] at q

/-- Settles O2: RESET and TIMEBASE WRITE apart, a command is a chain of moves, and no move takes a command. -/
theorem everyCommandCompletes : Obligations.EveryCommandCompletes := by
  intro i s
  obtain ⟨t, next⟩ := exec_next i s
  refine ⟨t, next, ?_⟩
  by_cases isReset : ∃ done, i = .reset done
  · obtain ⟨done, rfl⟩ := isReset
    cases next
    rfl
  by_cases isWrite : ∃ p f, i = .timebaseWrite p f
  · obtain ⟨p, f, rfl⟩ := isWrite
    rcases timebaseWrite_moves next with moves | ⟨period, multiple, -, moves⟩
    · exact moves.steady.pending
    · exact moves.steady.pending.trans
        (((moves_takeAllFlags s).trans ((moves_newSelection _ p).trans (moves_settled _))).steady.pending)
  · exact (exec_moves next (fun d e => isReset ⟨d, e⟩) fun p f e => isWrite ⟨p, f, e⟩).steady.pending

/-- Settles O36: TIMEBASE WRITE alone sets the parameters, and it is LOCKED while a session is open. -/
theorem parametersLockedBySession : Obligations.ParametersLockedBySession := by
  rintro i s t ⟨p, opened⟩ reset next
  have moves : Moves s t := by
    by_cases isWrite : ∃ q f, i = .timebaseWrite q f
    · obtain ⟨q, f, rfl⟩ := isWrite
      refine (timebaseWrite_moves next).resolve_right ?_
      rintro ⟨-, -, unlocked, -⟩
      rw [locked_iff.2 ⟨p, sessionOpen_iff.1 opened⟩] at unlocked
      cases unlocked
    · exact exec_moves next reset fun q f e => isWrite ⟨q, f, e⟩
  exact ⟨moves.steady.period, moves.steady.multiple⟩

end Steady

/-! ## What a request reaches -/

section Requests

variable {s t u : State}

/-- While no session is open, taking what is due changes no session (R67, R68). -/
theorem session_settled_of_unlocked (h : s.locked = false) (p : Port) : s.settled.session p = s.session p := by
  have closed : ∀ q, (s.session q).isOpen = false := by
    intro q
    by_contra opened
    rw [locked_iff.2 ⟨q, (isOpen_iff _).1 (by simpa using opened)⟩] at h
    cases h
  have counts : ∀ (x : Session) (e r : Bool), x.isOpen = false → x.countLease e r = x := fun x e r shut => by
    simp [Session.countLease, shut]
  have unit : ∀ v : State, (∀ q, v.session q = s.session q) → ∀ q, v.takeUnit.session q = s.session q := by
    intro v same q
    unfold State.takeUnit
    split
    · have flags := (sameBut_takeAllFlags v).session (by simp)
      rcases session_countUnit_cases v.takeAllFlags with ⟨-, e⟩ | ⟨-, e⟩ <;> rw [e, flags, same]
      exact counts _ _ _ (closed q)
    · exact same q
  have lapse : ∀ v : State, (∀ q, v.session q = s.session q) → ∀ q, v.takeLapse.session q = s.session q := by
    intro v same q
    unfold State.takeLapse
    split
    · have flags := (sameBut_takeAllFlags v).session (by simp)
      have counted : ∀ q, v.takeAllFlags.countLeases.session q = s.session q := fun q => by
        rw [session_countLeases, flags, same]
        exact counts _ _ _ (closed q)
      rw [lapseSessions_of_none fun q => by rw [counted]; simp [Session.lapseDue, closed q]]
      exact counted q
    · exact same q
  unfold State.settled
  split
  · rfl
  · unfold State.takeDue
    refine lapse _ (fun q => ?_) p
    rw [(sameBut_takeClaimExpiry _).session (by simp), (sameBut_takeExpiries _ 15).session (by simp)]
    refine unit _ (fun q => ?_) q
    rw [(sameBut_takeFieldEvents _).session (by simp), (sameBut_takeStep _).session (by simp),
      (sameBut_takeAllFlags s).session (by simp)]

/-- A TIMEBASE WRITE is refused, or sets the parameters while no session is open (R159, R160). -/
theorem timebaseWrite_cases (a : Byte × Byte) (u : State) :
    (∃ r, timebaseWriteRequest a u = (u, some r)) ∨
      ∃ v r, timebaseWriteRequest a u = (v, some r) ∧ r.accepts ∧ v.ports = u.ports ∧
        ∀ q, v.session q = u.session q := by
  unfold timebaseWriteRequest
  split
  · next period multiple _ _ =>
    split
    · exact .inl ⟨_, rfl⟩
    · next unlocked =>
      refine .inr ⟨_, _, rfl, .head _, sameBut_settled u .ports (by simp), fun q => ?_⟩
      exact session_settled_of_unlocked (by simpa using unlocked) q
  · exact .inl ⟨_, rfl⟩

/-- What a block leaves of a request of port `p` that it serves: the state as it was, or the other sessions and every
port as they were under a reply that accepts, or a COMMIT in progress. -/
theorem exec_request_bounds {i : Instr} {r : Request} (h : requestOf i = some r) :
    ∃ (α : Type) (refusal : Payload) (operands : List Byte → Option α) (run : α → State → State × Option Reply),
      (∀ s, exec i s = .next (s.receive r.port r.kind r.lead r.frame r.gate refusal operands run)) ∧
      ∀ (u : State) (a : α), (u.port r.port).transport = .ready → u.gate r.gate r.port r.frame.epoch = none →
        operands r.frame.payload = some a →
        (∃ w, run a u = (u, some w)) ∨
          ((run a u).1.ports = u.ports ∧ (∀ q, q ≠ r.port → (run a u).1.session q = u.session q) ∧
            ∀ w, (run a u).2 = some w → w.accepts) := by
  by_cases isWrite : ∃ p f, i = .timebaseWrite p f
  · obtain ⟨p, f, rfl⟩ := isWrite
    cases h
    refine ⟨_, _, _, _, fun _ => rfl, fun u a _ _ _ => ?_⟩
    rcases timebaseWrite_cases a u with same | ⟨v, w, e, accepts, ports, sessions⟩
    · exact .inl same
    · rw [e]
      exact .inr ⟨ports, fun q _ => sessions q, fun _ same => Option.some.inj same ▸ accepts⟩
  · obtain ⟨α, refusal, operands, run, next, replies⟩ := exec_request_replies h fun p f e => isWrite ⟨p, f, e⟩
    refine ⟨α, refusal, operands, run, next, fun u a ready admitted read => ?_⟩
    have reply := replies u a ready admitted read
    generalize run a u = result at reply ⊢
    cases reply with
    | unchanged w => exact .inl ⟨w, rfl⟩
    | accepted v w accepts served =>
      exact .inr ⟨served.ports, served.sessions, fun _ same => Option.some.inj same ▸ accepts⟩
    | commits v _ ports sessions =>
      refine .inr ⟨ports, fun q _ => ?_, fun _ none => by cases none⟩
      show v.session q = u.session q
      rw [State.session, sessions]
      rfl

theorem sending_newSelection (s : State) (p : Port) : ((s.newSelection p).port p).sending = none := by
  rw [State.newSelection, port_modPort, if_pos rfl]

theorem port_newSelection_of_ne (s : State) {p q : Port} (n : q ≠ p) : (s.newSelection p).port q = s.port q := by
  rw [State.newSelection, port_modPort, if_neg n.symm]

/-- Settles O54: a request stays at its port, or its block accepts it; a block reaches its own session alone. -/
theorem requestsStayInBounds : Obligations.RequestsStayInBounds := by
  constructor
  · intro i r s t response replay request flags next answered refused
    obtain ⟨α, refusal, operands, run, exec, bounds⟩ := exec_request_bounds request
    have outcome := receive_outcome (s := s) (p := r.port) (kind := r.kind) (lead := r.lead) (f := r.frame)
      (g := r.gate)
      (refusal := refusal) (operands := operands) (run := run)
    rw [exec] at next
    cases next
    rw [takeAllFlags_of_not_due flags] at outcome
    have start : SameBut [.ports] s (s.newSelection r.port) := sameBut_modPort _
    generalize s.receive r.port r.kind r.lead r.frame r.gate refusal operands run = t at outcome answered ⊢
    cases outcome with
    | port k _ _ => exact start.trans (sameBut_modPort k)
    | replied a v w ready admitted read served =>
      rcases bounds _ a ready admitted read with ⟨w', e⟩ | ⟨-, -, accepts⟩
      · rw [served] at e
        cases e
        exact start.trans sameBut_complete
      · rw [port_complete, if_pos rfl] at answered
        cases answered
        exact absurd (accepts w (by rw [served])) refused
    | silent a v ready admitted read served =>
      rw [port_modPort, if_pos rfl] at answered
      cases answered
  · intro i r s t request next
    obtain ⟨α, refusal, operands, run, exec, bounds⟩ := exec_request_bounds request
    have outcome := receive_outcome (s := s) (p := r.port) (kind := r.kind) (lead := r.lead) (f := r.frame)
      (g := r.gate)
      (refusal := refusal) (operands := operands) (run := run)
    rw [exec] at next
    cases next
    have flags := sameBut_takeAllFlags s
    have ended := sending_newSelection s.takeAllFlags r.port
    have others : ∀ q, q ≠ r.port → (s.takeAllFlags.newSelection r.port).session q = s.session q ∧
        (s.takeAllFlags.newSelection r.port).port q = s.port q := fun q n =>
      ⟨by rw [session_newSelection, flags.session (by simp)],
        by rw [port_newSelection_of_ne _ n, flags.port (by simp)]⟩
    generalize s.takeAllFlags.newSelection r.port = u at outcome ended others
    have kept : ∀ a v w, (u.port r.port).transport = .ready → u.gate r.gate r.port r.frame.epoch = none →
        operands r.frame.payload = some a → run a u = (v, w) →
        v.ports = u.ports ∧ ∀ q, q ≠ r.port → v.session q = u.session q := by
      intro a v w ready admitted read served
      rcases bounds u a ready admitted read with ⟨w', e⟩ | ⟨ports, sessions, -⟩
      · rw [served] at e
        cases e
        exact ⟨rfl, fun _ _ => rfl⟩
      · rw [served] at ports sessions
        exact ⟨ports, sessions⟩
    generalize s.receive r.port r.kind r.lead r.frame r.gate refusal operands run = t at outcome
    cases outcome with
    | port k _ selection =>
      refine ⟨?_, fun q n => ?_⟩
      · rw [port_modPort, if_pos rfl]
        exact selection.trans ended
      · rw [port_modPort, if_neg n.symm]
        exact others q n
    | replied a v w ready admitted read served =>
      obtain ⟨ports, sessions⟩ := kept a v _ ready admitted read served
      have port : ∀ q, v.port q = u.port q := fun q => by rw [State.port, ports]; rfl
      refine ⟨?_, fun q n => ?_⟩
      · rw [port_complete, if_pos rfl, port]
        exact ended
      · rw [port_complete, if_neg n.symm, port, session_complete, sessions q n]
        exact others q n
    | silent a v ready admitted read served =>
      obtain ⟨ports, sessions⟩ := kept a v _ ready admitted read served
      have port : ∀ q, v.port q = u.port q := fun q => by rw [State.port, ports]; rfl
      refine ⟨?_, fun q n => ?_⟩
      · rw [port_modPort, if_pos rfl, port]
        exact ended
      · rw [port_modPort, if_neg n.symm, port, session_modPort, sessions q n]
        exact others q n

end Requests

end Sys2Proof.Machine

/-! # Sessions: OPEN, CLOSE, REFRESH and MODE (chapter 3) -/

namespace Sys2Proof.Machine

/-! ## Blocks on the state in which a selection ends -/

section Selection

variable (s : State) (p : Port)

theorem sameBut_newSelection : SameBut [.ports] s (s.newSelection p) := sameBut_modPort _

/-- A grant pass that follows a block reads no port: it may be taken on the state as it was before the selection. -/
theorem sameBut_grantPass_complete {s : State} {v : Vector PortState 4} {kind seq : Byte} {r : Reply} :
    SameBut [.ports] s.grantPass ((s.withPorts v).grantPass.complete p kind seq r) := by
  rw [grantPass_withPorts]
  exact SameBut.trans (sameBut_withPorts _ _) sameBut_complete

end Selection

/-! ## OPEN and MODE -/

section Requests

variable {s : State} {p : Port}

theorem openRequest_accepted {priority lease : Byte} (closed : s.sessionOpen p = false) (bound : priority.toNat ≤ 7)
    (leased : lease ≠ 0) :
    openRequest p (priority, lease) s =
      (s.openAs p priority.toNat lease.toNat,
        some ⟨.ok, false, .opened (nextEpoch s.epochCounter) (min priority.toNat (s.ceiling p))⟩) := by
  have good : ¬(7 < priority.toNat ∨ lease = 0) := by
    rintro (h | h)
    · omega
    · exact leased h
  rw [openRequest, if_neg (by simp [closed]), if_neg good]

/-- Settles O5. -/
theorem openBeginsSession : Obligations.OpenBeginsSession := by
  intro p f s priority lease taken payload closed bound leased
  obtain ⟨next, answered, same⟩ := exec_executed (i := .openSession p f) rfl taken (by simp [payload])
    (show openOperands f.payload = some (priority, lease) by rw [payload]; rfl) (gate_exempt _)
    (openRequest_accepted (s := s.newSelection p) (p := p) closed bound leased)
    (sameBut_openAs _ p priority.toNat lease.toNat) (by simp)
  refine ⟨_, next, rfl, ?_, fun q n => ?_, ?_, fun q n => ?_, ?_, fun q n => ?_, answered, same.weaken (by simp)⟩
  · rw [session_complete, session_openAs, if_pos rfl]
    rfl
  · rw [session_complete, session_openAs, if_neg n.symm, session_newSelection]
  · rw [queue_complete, queue_openAs, if_pos rfl]
  · rw [queue_complete, queue_openAs, if_neg n.symm, queue_newSelection]
  · simp [renewed_openAs]
  · simp [renewed_openAs, Fin.val_ne_of_ne n.symm]

theorem modeRequest_run (idle : (s.session p).state = .idle) (free : s.holdsCal p = false) :
    modeRequest p 1 s = (s.goRun p, some (plain .ok)) := by
  simp [modeRequest, State.running, idle, free]

theorem modeRequest_idle (run : (s.session p).state = .run) : modeRequest p 0 s = (s.goIdle p, some (plain .ok)) := by
  simp [modeRequest, State.running, run]

/-- Settles O8. -/
theorem modeMovesSession : Obligations.ModeMovesSession := by
  constructor
  · intro p f s taken payload admitted idle free
    obtain ⟨next, answered, same⟩ := exec_executed (i := .mode p f) rfl taken (by simp [payload])
      (show oneByte f.payload = some 1 by rw [payload]; rfl) (gate_of_admits admitted _)
      (modeRequest_run (s := s.newSelection p) (p := p) idle free) (sameBut_goRun _ p) (by simp)
    refine ⟨_, next, ?_, fun q n => ?_, fun c => ?_, answered, same.weaken (by simp)⟩
    · rw [session_complete, session_goRun, if_pos rfl, session_newSelection]
    · rw [session_complete, session_goRun, if_neg n.symm, session_newSelection]
    · rw [chan_complete, chan_goRun, chan_newSelection, bankOk_newSelection]
  · intro p f s taken payload admitted run
    obtain ⟨next, answered, same⟩ := exec_executed (i := .mode p f) rfl taken (by simp [payload])
      (show oneByte f.payload = some 0 by rw [payload]; rfl) (gate_of_admits admitted _)
      (modeRequest_idle (s := s.newSelection p) (p := p) run) (sameBut_goIdle _ p) (by simp)
    refine ⟨_, next, ?_, fun q n => ?_, fun c => ?_, answered, same.weaken (by simp)⟩
    · rw [session_complete, session_goIdle, if_pos rfl, session_newSelection]
    · rw [session_complete, session_goIdle, if_neg n.symm, session_newSelection]
    · rw [chan_complete, chan_goIdle, chan_newSelection, bankOk_newSelection]

/-- Settles O9. -/
theorem sessionRequestChecks : Obligations.SessionRequestChecks := by
  constructor
  · intro p f s priority lease taken payload
    have answers : ∀ r, openRequest p (priority, lease) (s.newSelection p) = (s.newSelection p, some r) →
        OnlyAnswers (.openSession p f) s p kindOpen f r := fun r =>
      onlyAnswers_of_receive (i := .openSession p f) rfl taken (by simp [payload])
        (show openOperands f.payload = some (priority, lease) by rw [payload]; rfl) (gate_exempt _)
    refine ⟨fun opened => answers _ ?_, fun closed bad => answers _ ?_⟩
    · rw [openRequest, if_pos (by simpa using opened)]
      rfl
    · rw [openRequest, if_neg (by simp [closed]), if_pos bad]
      rfl
  · intro p f s value taken payload admitted
    have answers : ∀ r, modeRequest p value (s.newSelection p) = (s.newSelection p, some r) →
        OnlyAnswers (.mode p f) s p kindMode f r := fun r =>
      onlyAnswers_of_receive (i := .mode p f) rfl taken (by simp [payload])
        (show oneByte f.payload = some value by rw [payload]; rfl) (gate_of_admits admitted _)
    refine ⟨fun unknown => answers _ ?_, ?_, ?_, ?_⟩
    · unfold modeRequest
      split
      · omega
      · omega
      · rfl
    · rintro rfl idle
      exact answers _ (by simp [modeRequest, State.running, idle, plain])
    · rintro rfl run
      exact answers _ (by simp [modeRequest, State.running, run, plain])
    · rintro rfl idle held
      exact answers _ (by simp [modeRequest, State.running, idle, held, plain])

end Requests

/-! ## CLOSE -/

section Close

variable {s : State} {p : Port}

theorem withdraw_withPorts (v : Vector PortState 4) (who : Port → Bool) (pick : ChanConfig → Action) :
    (s.withPorts v).withdraw who pick = (s.withdraw who pick).withPorts v := rfl

/-- Settles O6: the withdrawal and its grant pass leave the port neither a channel nor a claim. -/
theorem closeEndsSession : Obligations.CloseEndsSession := by
  constructor
  · intro p f s taken payload admitted sound
    set u := s.withdraw (fun q => q = p) ChanConfig.releaseAction with hu
    have withdrawn := sameBut_withdraw s (fun q => decide (q = p)) ChanConfig.releaseAction
    have request : closeRequest p () (s.newSelection p) =
        (((u.withPorts (s.newSelection p).ports).grantPass).clearSession p, some (plain .ok)) := by
      rw [closeRequest, if_pos (by simpa using (admits_iff.1 admitted).1)]
      rfl
    have changed : SameBut [.chans, .claims, .cal, .queues, .sessions] (s.newSelection p)
        (((u.withPorts (s.newSelection p).ports).grantPass).clearSession p) :=
      SameBut.trans (b := u.withPorts (s.newSelection p).ports)
        ((sameBut_withdraw (s.newSelection p) (fun q => decide (q = p)) ChanConfig.releaseAction).weaken (by simp))
        (SameBut.trans ((sameBut_grantPass _).weaken (by simp)) ((sameBut_clearSession _ p).weaken (by simp)))
    obtain ⟨next, answered, -⟩ := exec_executed (i := .closeSession p f) rfl taken (by simp [payload])
      (show noOperands f.payload = some () by rw [payload]; rfl) (gate_of_admits admitted _) request changed (by simp)
    have clear : SameBut [.sessions, .queues, .ports] u.grantPass
        ((((u.withPorts (s.newSelection p).ports).grantPass).clearSession p).complete p kindClose f.seq
          (plain .ok)) := by
      rw [grantPass_withPorts]
      exact SameBut.trans ((sameBut_withPorts _ _).weaken (by simp))
        (SameBut.trans ((sameBut_clearSession _ p).weaken (by simp)) (sameBut_complete.weaken (by simp)))
    obtain ⟨unowned, unclaimed⟩ := unowned_withdraw sound.owners (fun q => decide (q = p)) ChanConfig.releaseAction
    obtain ⟨unowned, unclaimed⟩ :=
      unowned_grantPass (p := p) (fun c => unowned c p (by simp)) fun k hk => by simpa using unclaimed k hk
    refine ⟨_, u, next, fun c => ?_, ?_, ?_, withdrawn, ?_, fun q n => ?_, ?_, fun q n => ?_, clear, fun c => ?_,
      fun k hk => ?_, answered⟩
    · rw [hu, chan_withdraw]
      cases own : (s.chan c).own <;> simp
    · rw [hu, claims_withdraw sound.owners]
      exact List.filter_congr fun k _ => by simp
    · rw [hu, cal_withdraw sound.context]
      congr 1
      funext x
      simp
    · rw [session_complete, session_clearSession, if_pos rfl]
      rfl
    · rw [session_complete, session_clearSession, if_neg n.symm, session_grantPass]
      exact withdrawn.session (by simp) q
    · rw [queue_complete, queue_clearSession, if_pos rfl]
    · rw [queue_complete, queue_clearSession, if_neg n.symm, grantPass_withPorts]
      exact (sameBut_withPorts _ _).queue (by simp) q
    · rw [clear.chan (by simp)]
      exact unowned c
    · rw [clear .claims (by simp)] at hk
      exact unclaimed k hk
  · intro p f s taken payload lapsed epoch
    have closed : (s.newSelection p).sessionOpen p = false := by
      simp [State.sessionOpen, Session.isOpen, lapsed]
    have request : closeRequest p () (s.newSelection p) = ((s.newSelection p).clearSession p, some (plain .ok)) := by
      rw [closeRequest, if_neg (by simp [closed])]
    have gate : s.gate .keeping p f.epoch = none := by simp [State.gate, lapsed, epoch]
    obtain ⟨next, answered, same⟩ := exec_executed (i := .closeSession p f) rfl taken (by simp [payload])
      (show noOperands f.payload = some () by rw [payload]; rfl) gate request (sameBut_clearSession _ p) (by simp)
    refine ⟨_, next, ?_, fun q n => ?_, ?_, fun q n => ?_, answered, same.weaken (by simp)⟩
    · rw [session_complete, session_clearSession, if_pos rfl]
      rfl
    · rw [session_complete, session_clearSession, if_neg n.symm, session_newSelection]
    · rw [queue_complete, queue_clearSession, if_pos rfl]
    · rw [queue_complete, queue_clearSession, if_neg n.symm, queue_newSelection]

end Close

/-! ## REFRESH, and the lapse that does not follow it -/

section Refresh

variable {s : State} {p : Port}

/-- A session that is not due to lapse goes through a lapse of others as it is (R68). -/
theorem session_lapseSessions_of_not_due (h : (s.session p).lapseDue = false) :
    s.lapseSessions.session p = s.session p := by
  rcases lapseSessions_cases s with ⟨none, -⟩ | same
  · rw [none]
  · rw [same.session (by simp), session_grantPass, session_lapseWithdrawn, if_neg (by simp [h])]

theorem session_takeLapse_of_due (due : s.leasesDue)
    (stays : ((s.session p).countLease (s.port p).isExecuting s.renewed[p]).lapseDue = false) :
    s.takeLapse.session p = (s.session p).countLease (s.port p).isExecuting s.renewed[p] := by
  have flags := sameBut_takeAllFlags s
  have counted : s.takeAllFlags.countLeases.session p =
      (s.session p).countLease (s.port p).isExecuting s.renewed[p] := by
    rw [session_countLeases, flags.session (by simp), flags.port (by simp), flags .renewed (by simp)]
  rw [State.takeLapse, if_pos due, session_lapseSessions_of_not_due (by rw [counted]; exact stays), counted]

/-- A full lease, renewed while the event waits, loses one unit at it, and not its last (R67, R69). -/
theorem countLease_renewed {x : Session} (opened : x.isOpen) (leased : 1 ≤ x.counter) :
    x.countLease false true = { x with counter := max 1 (x.counter - 1) } := by
  unfold Session.countLease
  by_cases one : x.counter = 1
  · simp [one]
    exact one ▸ rfl
  · have more : max 1 (x.counter - 1) = x.counter - 1 := by omega
    simp [opened, one, more]

theorem unitDue_iff : s.unitDue ↔
    (match s.timebase.multiple with | .m8 => 8 | .m32 => 32 | .m128 => 128) ≤ s.timebase.tickCount := by
  unfold State.unitDue Multiple.ticks
  cases s.timebase.multiple <;> simp

/-- The marks of a renewed session (R69; notes/assumptions/30.md). -/
theorem renewed_refreshLease_iff (q : Port) :
    (s.refreshLease p).renewed[q] ↔ s.renewed[q] ∨ (q = p ∧ (s.unitDue ∨ s.leasesDue)) := by
  rw [renewed_refreshLease]
  by_cases due : s.unitDue ∨ s.leasesDue
  · rw [if_pos (by simpa using due)]
    by_cases e : p = q
    · subst e
      simp [due]
    · simp [Fin.val_ne_of_ne e, Ne.symm e]
  · rw [if_neg (by simpa using due)]
    simp [due]

/-- Settles O7. -/
theorem refreshRenewsLease : Obligations.RefreshRenewsLease := by
  intro p f s taken payload admitted ticks counted
  obtain ⟨opened, -⟩ := admits_iff.1 admitted
  obtain ⟨next, answered, same⟩ := exec_executed (i := .refresh p f) (run := refreshRequest p) rfl taken
    (by simp [payload]) (show noOperands f.payload = some () by rw [payload]; rfl) (gate_of_admits admitted _) rfl
    (sameBut_refreshLease (s.newSelection p) p) (by simp)
  generalize ht : ((s.newSelection p).refreshLease p).complete p kindRefresh f.seq (plain .ok) = t at next answered same
  have renewed : ∀ q : Port, t.renewed[q] ↔ s.renewed[q] ∨ (q = p ∧ (ticks ≤ s.timebase.tickCount ∨ s.leasesDue)) := by
    intro q
    rw [← ht, renewed_complete, renewed_refreshLease_iff, unitDue_iff]
    rfl
  have session : t.session p = { s.session p with counter := (s.session p).lease } := by
    rw [← ht, session_complete, session_refreshLease, if_pos rfl, session_newSelection]
  have free : (t.port p).isExecuting = false := by rw [answered.1]; rfl
  have counts : 1 ≤ (s.session p).lease → t.renewed[p] →
      (t.session p).countLease (t.port p).isExecuting t.renewed[p] = counted ∧ counted.lapseDue = false := by
    intro leased marked
    refine ⟨?_, by simp [Session.lapseDue, counted]⟩
    rw [free, marked, session, 
      countLease_renewed (x := { s.session p with counter := (s.session p).lease }) opened leased]
  refine ⟨t, next, renewed, fun leased due => ?_, fun leased due => ?_, session, fun q n => ?_, answered,
    same.weaken (by simp)⟩
  · obtain ⟨counting, stays⟩ := counts leased ((renewed p).2 (.inr ⟨rfl, .inr due⟩))
    have waits : t.leasesDue := by rw [same .leasesDue (by simp)]; exact due
    exact ⟨_, rfl, (session_takeLapse_of_due waits (by rw [counting]; exact stays)).trans counting⟩
  · have marked := (renewed p).2 (.inr ⟨rfl, .inl due⟩)
    obtain ⟨counting, stays⟩ := counts leased marked
    have flags : t.flagsDue = false := by
      rw [flagsDue_eq_false]
      intro c
      rw [same.chan (by simp)]
      exact (flagsDue_eq_false s).1 (ready_iff.1 (takes_iff.1 taken).1).1 c
    have unit : t.unitDue := by
      rw [State.unitDue, same .timebase (by simp)]
      exact unitDue_iff.2 due
    refine ⟨_, _, rfl, rfl, ?_⟩
    rw [takeUnit_of_due unit flags]
    obtain ⟨-, -, -, -, -, leasesDue, marks, kept⟩ := countUnit_spec t
    rcases session_countUnit_cases t with ⟨ends, e⟩ | ⟨ends, e⟩
    · have free' : (t.countUnit.port p).isExecuting = (t.port p).isExecuting := by rw [kept.port (by simp)]
      rw [ends, if_pos rfl] at marks
      have counting' : (t.countUnit.session p).countLease (t.countUnit.port p).isExecuting t.countUnit.renewed[p] =
          counted := by rw [e, free', marks, counting]
      exact (session_takeLapse_of_due (leasesDue.trans ends) (by rw [counting']; exact stays)).trans counting'
    · rw [takeLapse_of_not_due (leasesDue.trans ends), e, counting]
  · rw [← ht, session_complete, session_refreshLease, if_neg n.symm, session_newSelection]

end Refresh

end Sys2Proof.Machine

/-! # Claims: CLAIM, CANCEL, RELEASE and the grant pass (chapter 2) -/

namespace Sys2Proof.Machine

/-! ## CLAIM -/

section Claim

variable {s : State} {p : Port} {tag : Byte} {set : ChanSet} {flags limit : Byte}

/-- A request that takes the state through `u` and a grant pass: the grant pass of the state before the selection, and
the answer (R29, R169). -/
theorem exec_granting {α : Type} {s u : State} {p : Port} {kind : Byte} {f : Frame} {g : GateClass}
    {refusal : Payload} {operands : List Byte → Option α} {run : α → State → State × Option Reply} {a : α} {r : Reply}
    {i : Instr} {changed : List Part} (x : exec i s = .next (s.receive p kind [] f g refusal operands run))
    (taken : s.takes p kind [] f) (short : f.payload.length ≤ 40) (decoded : operands f.payload = some a)
    (gate : s.gate g p f.epoch = none)
    (block : run a (s.newSelection p) = ((u.withPorts (s.newSelection p).ports).grantPass, some r))
    (same : SameBut changed s u) (ports : Part.ports ∉ changed) :
    ∃ t, exec i s = .next t ∧ SameBut [.ports] u.grantPass t ∧ Answered s t p kind f r := by
  have kept : SameBut ([.chans, .claims, .queues] ++ changed) (s.newSelection p)
      (u.withPorts (s.newSelection p).ports).grantPass := by
    refine SameBut.trans (b := u.withPorts (s.newSelection p).ports) ?_
      ((sameBut_grantPass _).weaken (by simp +contextual))
    intro y hy
    by_cases e : y = .ports
    · subst e
      rfl
    · have same' : y.Same s u := same y fun h => hy (by simp [h])
      cases y <;> simp [Part.Same, State.withPorts] at same' e ⊢ <;> exact same'
  obtain ⟨next, answered, -⟩ := exec_executed x taken (by simpa using short) decoded gate block kept (by simp [ports])
  exact ⟨_, next, sameBut_grantPass_complete p, answered⟩

theorem owned_grantPass_kept {u t : State} {c : Channel} (same : SameBut [.ports] u.grantPass t)
    (owned : (u.chan c).own = .owned p) : t.chan c = u.chan c := by
  rw [same.chan (by simp), chan_grantPass_owned _ owned]

/-- The frame of a CLAIM that its block decides on (R31, R32). -/
theorem claimRequest_decided (passes : s.ClaimPasses p tag set flags) :
    claimRequest p ⟨tag, set, flags, limit⟩ (s.newSelection p) =
      (((s.newSelection p).decideClaim p ⟨tag, set, flags, limit⟩).1,
        some ((s.newSelection p).decideClaim p ⟨tag, set, flags, limit⟩).2) := by
  rw [claimRequest, claimCheck_newSelection, claimCheck_eq_none passes]

/-- R32 case 1 on the state in which the selection ends. -/
theorem decideClaim_grantable (at' : s.GrantableAt p set) :
    (s.newSelection p).decideClaim p ⟨tag, set, flags, limit⟩ =
      (((s.grant p set).withPorts (s.newSelection p).ports).grantPass,
        claimReply ⟨tag, set, flags, limit⟩ .granted 0 0) := by
  unfold State.decideClaim
  rw [if_pos]
  · rfl
  · exact grantable_iff.2 at'

/-- Settles O10. -/
theorem claimGrantedAtOnce : Obligations.ClaimGrantedAtOnce := by
  intro p f s tag set flags limit taken payload admitted passes grantable
  obtain ⟨t, next, same, answered⟩ := exec_granting (i := .claim p f) (u := s.grant p set) rfl taken (by simp [payload])
    (show claimOperands f.payload = _ by rw [payload]; exact claimOperands_claimPayload ..) (gate_of_admits admitted _)
    (by rw [claimRequest_decided passes, decideClaim_grantable grantable]) (sameBut_grant s p set) (by simp)
  refine ⟨t, s.grant p set, next, chan_grant s p set, sameBut_grant s p set, same, fun c inside => ?_, answered⟩
  have granted : (s.grant p set).chan c = (s.chan c).grant p (s.running p) (s.bankOk c) := by
    rw [chan_grant, if_pos inside]
  rw [owned_grantPass_kept same (by rw [granted]; exact own_grant ..), granted]

/-! ### Preemption -/

/-- R32 case 2 on the state in which the selection ends. -/
theorem decideClaim_preempts (not : ¬s.GrantableAt p set) (preempt : flags.getLsbD 1)
    (test : s.PreemptionPasses p set) :
    (s.newSelection p).decideClaim p ⟨tag, set, flags, limit⟩ =
      (((((s.revoke p set).grant p set)).withPorts (s.newSelection p).ports).grantPass,
        claimReply ⟨tag, set, flags, limit⟩ .granted (chanSetOf (s.ownedIn set)) 0) := by
  have pre : (ClaimOperands.preempt ⟨tag, set, flags, limit⟩ &&
      s.preempts (s.aheadOfHead (s.session p).priority) (s.session p).priority set) = true := by
    rw [Bool.and_eq_true]
    exact ⟨preempt, preempts_iff.2 test⟩
  unfold State.decideClaim
  rw [if_neg, if_pos]
  · rw [newSelection_eq, revoke_withPorts, grant_withPorts]
    rfl
  · exact pre
  · exact fun h => not (grantable_iff.1 h)

/-- The REVOKED records in ascending channel number, each to the owner of its channel (R34). -/
theorem revokedNotes_eq :
    ((s.ownedIn set).filterMap fun c => ((s.chan c).owner).map fun q => (q, NoteBody.revoked c p)) =
      (allChannels.filter fun c => inSet set c).flatMap fun c => (s.chan c).toOwner (.revoked c p) := by
  unfold State.ownedIn
  induction allChannels with
  | nil => rfl
  | cons c l ih =>
    by_cases inside : inSet set c
    · cases owner : (s.chan c).owner with
      | none => simpa [inside, owner, Chan.toOwner] using ih
      | some q => simpa [inside, owner, Chan.toOwner] using ih
    · simpa [inside] using ih

theorem handed_grant_revoke :
    Handed s ((s.revoke p set).grant p set)
      ((allChannels.filter fun c => inSet set c).flatMap fun c => (s.chan c).toOwner (.revoked c p)) := by
  rw [← revokedNotes_eq]
  exact handed_notifyAll (s.mapChans _) _

theorem sameBut_grant_revoke : SameBut [.chans, .queues] s ((s.revoke p set).grant p set) :=
  SameBut.trans (sameBut_revoke s p set) ((sameBut_grant _ p set).weaken (by simp))

theorem inSet_ownedIn (c : Channel) :
    inSet (chanSetOf (s.ownedIn set)) c = (inSet set c && (s.chan c).owner.isSome) := by
  rw [inSet_chanSetOf, Bool.eq_iff_iff, List.contains_iff_mem]
  simp [State.ownedIn, mem_allChannels]

/-- Settles O11. -/
theorem claimPreempts : Obligations.ClaimPreempts := by
  intro p f s tag set flags limit taken payload admitted passes blocked preempt test
  obtain ⟨t, next, same, answered⟩ := exec_granting (i := .claim p f) (u := (s.revoke p set).grant p set) rfl taken
    (by simp [payload]) (show claimOperands f.payload = _ by rw [payload]; exact claimOperands_claimPayload ..)
    (gate_of_admits admitted _) (by rw [claimRequest_decided passes, decideClaim_preempts blocked preempt test])
    sameBut_grant_revoke (by simp)
  refine ⟨t, (s.revoke p set).grant p set, _, next, chan_grant_revoke, handed_grant_revoke, sameBut_grant_revoke, same,
    fun c inside => ?_, inSet_ownedIn, answered⟩
  exact owned_grantPass_kept same (by rw [chan_grant, if_pos inside]; exact own_grant ..)

/-! ### Waiting -/

/-- Neither granted nor preempting (R32 cases 3 to 5). -/
theorem decideClaim_waits (blocked : ¬s.GrantableAt p set) (held : ¬(flags.getLsbD 1 ∧ s.PreemptionPasses p set)) :
    s.decideClaim p ⟨tag, set, flags, limit⟩ =
      if flags.getLsbD 0 then
        if s.claims.length < 8 ∧ (s.claimsOf p).length < 4 then
          (s.queueClaim p ⟨tag, set, flags, limit⟩, claimReply ⟨tag, set, flags, limit⟩ .queued 0
            ((s.queueClaim p ⟨tag, set, flags, limit⟩).position p tag))
        else (s, claimReply ⟨tag, set, flags, limit⟩ .claimFull 0 0)
      else (s, claimReply ⟨tag, set, flags, limit⟩ .busy 0 0) := by
  have pre : ¬(ClaimOperands.preempt ⟨tag, set, flags, limit⟩ &&
      s.preempts (s.aheadOfHead (s.session p).priority) (s.session p).priority set) = true := by
    rw [Bool.and_eq_true, preempts_iff]
    exact held
  unfold State.decideClaim
  rw [if_neg fun h => blocked (grantable_iff.1 h), if_neg pre]
  rfl

/-- The list with the waiting claim in its place (R23, R35). -/
def State.withClaim (s : State) (p : Port) (a : ClaimOperands) : State :=
  { s with claims := insertClaim (s.newClaim p a) s.claims, arrivals := s.arrivals + 1 }

theorem sameBut_withClaim (a : ClaimOperands) : SameBut [.claims, .arrivals] s (s.withClaim p a) := by
  intro y hy
  cases y <;> simp [Part.Same, State.withClaim] at hy ⊢

theorem head?_insertClaim_of_le {k x : Claim} {l : List Claim} (behind : k.priority ≤ x.priority)
    (head : l.head? = some x) : ∃ rest, l = x :: rest ∧ insertClaim k l = x :: insertClaim k rest := by
  cases l with
  | nil => simp at head
  | cons y rest =>
    obtain rfl : y = x := by simpa using head
    exact ⟨rest, rfl, by rw [insertClaim, if_pos behind]⟩

/-- The claim that was not grantable when it came is not granted by the grant pass that follows (R25, R28). -/
theorem newClaim_mem_grantPass {a : ClaimOperands} (arbitrated : s.Arbitrated) (blocked : ¬s.GrantableAt p a.set) :
    s.newClaim p a ∈ (s.withClaim p a).grantPass.claims := by
  obtain ⟨c, inside, notFree, notAhead⟩ :
      ∃ c, inSet a.set c ∧ (s.chan c).own ≠ .free ∧ ((s.chan c).own = .reserved → ¬s.LeadsList p) := by
    by_contra none
    push Not at none
    exact blocked fun c inside => by
      by_cases free : (s.chan c).own = .free
      · exact .inl free
      · exact .inr (none c inside free)
  refine mem_grantPass_claims (s := s.withClaim p a) (mem_insertClaim _ _) inside ?_
  cases own : (s.chan c).own with
  | free => exact absurd own notFree
  | owned q => exact .inl (owner_isSome.2 ⟨q, own⟩)
  | reserved =>
    right
    obtain ⟨⟨head, first, wanted⟩, -⟩ := wantedByHead_iff.1 ((arbitrated.reserved c).1 own)
    have behind : (s.session p).priority ≤ head.priority := by
      have := notAhead own
      simp only [State.LeadsList, first, Option.some.injEq, forall_eq'] at this
      omega
    obtain ⟨rest, -, e⟩ := head?_insertClaim_of_le (k := s.newClaim p a) behind first
    exact ⟨head, insertClaim (s.newClaim p a) rest, e, mem_insertClaim _ _, wanted⟩

/-- The position found is that of the claim (R35). -/
theorem getElem?_position {t : State} {k : Claim} (there : k ∈ t.claims)
    (alone : ∀ x ∈ t.claims, x.port = k.port → x.tag = k.tag → x = k) :
    ∃ position, t.claims[position]? = some k ∧ t.position k.port k.tag = position + 1 := by
  set test := fun x : Claim => decide (x.port = k.port) && decide (x.tag = k.tag) with ht
  have found : t.claims.findIdx test < t.claims.length := List.findIdx_lt_length_of_exists ⟨k, there, by simp [ht]⟩
  refine ⟨t.claims.findIdx test, ?_, rfl⟩
  obtain ⟨port, tag⟩ : (t.claims[t.claims.findIdx test]).port = k.port ∧
    (t.claims[t.claims.findIdx test]).tag = k.tag := by
    have := List.findIdx_getElem (p := test) (w := found)
    simpa [ht] using this
  rw [List.getElem?_eq_getElem found, alone _ (List.getElem_mem found) port tag]

/-- Settles O12. -/
theorem claimJoinsList : Obligations.ClaimJoinsList := by
  intro p f s tag set flags limit taken payload admitted passes blocked held wait room share arbitrated
  set a : ClaimOperands := ⟨tag, set, flags, limit⟩ with ha
  have share' : (s.claimsOf p).length < 4 := by
    refine lt_of_le_of_lt (List.Sublist.length_le (List.monotone_filter_right _ fun k mine => ?_)) share
    simp only [State.ownsClaim, Bool.and_eq_true] at mine
    exact mine.1
  have queued : s.queueClaim p a = (s.withClaim p a).grantPass := rfl
  have block : claimRequest p a (s.newSelection p) =
      (((s.withClaim p a).withPorts (s.newSelection p).ports).grantPass,
        some (claimReply a .queued 0 ((s.withClaim p a).grantPass.position p tag))) := by
    have place : ((s.newSelection p).queueClaim p a).position p tag = (s.withClaim p a).grantPass.position p tag := by
      have e : (s.newSelection p).queueClaim p a = ((s.withClaim p a).withPorts
        (s.newSelection p).ports).grantPass := rfl
      rw [e, grantPass_withPorts]
      rfl
    rw [claimRequest_decided passes, decideClaim_waits (s := s.newSelection p) blocked held, if_pos wait,
      if_pos ⟨room, share'⟩, place]
    rfl
  obtain ⟨t, next, same, answered⟩ := exec_granting (i := .claim p f) (u := s.withClaim p a) rfl taken
    (by simp [payload]) (show claimOperands f.payload = _ by rw [payload]; exact claimOperands_claimPayload ..)
    (gate_of_admits admitted _) block (sameBut_withClaim a) (by simp)
  obtain ⟨ahead, behind, split, joined, higher, lower⟩ := insertClaim_split (s.newClaim p a) arbitrated.order.2.1
  have alone : ∀ x ∈ (s.withClaim p a).grantPass.claims, x.port = p → x.tag = tag → x = s.newClaim p a := by
    intro x hx port same
    rcases mem_insertClaim_iff.1 ((claims_grantPass_sublist _).subset hx) with rfl | old
    · rfl
    · refine absurd same (passes.fresh x old ?_)
      simp [State.ownsClaim, port, (arbitrated.owners.2 x old).2]
  obtain ⟨position, there, place⟩ := getElem?_position (newClaim_mem_grantPass arbitrated blocked) alone
  refine ⟨t, s.withClaim p a, ahead, behind, position, next, split, joined, higher, lower, rfl,
    sameBut_withClaim a, same,
    ?_, ?_⟩
  · rw [same .claims (by simp)]
    exact there
  · rw [← place]
    exact answered

/-! ### Refusals -/

theorem claimCheck_badArg (h : tag = 0 ∨ set = 0 ∨ 3 < flags.toNat) :
    s.claimCheck p ⟨tag, set, flags, limit⟩ = some .badArg := by
  rw [State.claimCheck, if_pos h]

theorem claimCheck_ownOverlap (named : ¬(tag = 0 ∨ set = 0 ∨ 3 < flags.toNat)) (h : s.overlaps p set) :
    s.claimCheck p ⟨tag, set, flags, limit⟩ = some .ownOverlap := by
  rw [State.claimCheck, if_neg named, if_pos h]

theorem claimCheck_dupTag (named : ¬(tag = 0 ∨ set = 0 ∨ 3 < flags.toNat)) (apart : ¬s.overlaps p set)
    (h : ∃ k ∈ s.claims, s.ownsClaim p k ∧ k.tag = tag) :
    s.claimCheck p ⟨tag, set, flags, limit⟩ = some .dupTag := by
  rw [State.claimCheck, if_neg named, if_neg apart, if_pos (any_claimsOf_tag.2 h)]

theorem claimRequest_refused {a : ClaimOperands} {r : Result} (h : s.claimCheck p a = some r) :
    claimRequest p a (s.newSelection p) = (s.newSelection p, some (claimReply a r 0 0)) := by
  rw [claimRequest, claimCheck_newSelection, h]

/-- Settles O13. -/
theorem claimRefusals : Obligations.ClaimRefusals := by
  intro p f s tag set flags limit taken payload admitted answers argsBad overlap satisfied
  have answers_of : ∀ r, claimRequest p ⟨tag, set, flags, limit⟩ (s.newSelection p) =
      (s.newSelection p, some (claimReply ⟨tag, set, flags, limit⟩ r 0 0)) → answers r := fun r =>
    onlyAnswers_of_receive (i := .claim p f) rfl taken (by simp [payload])
      (show claimOperands f.payload = _ by rw [payload]; exact claimOperands_claimPayload ..)
        (gate_of_admits admitted _)
  have waits : s.ClaimPasses p tag set flags → ¬satisfied →
      claimRequest p ⟨tag, set, flags, limit⟩ (s.newSelection p) = _ := fun passes unsatisfied =>
    (claimRequest_decided passes).trans (by
      rw [decideClaim_waits (s := s.newSelection p) (fun h => unsatisfied (.inl h)) fun h => unsatisfied (.inr h)])
  refine ⟨fun bad => answers_of _ (claimRequest_refused (claimCheck_badArg bad)),
    fun named laps => answers_of _ (claimRequest_refused (claimCheck_ownOverlap named (overlaps_iff.2 laps))),
    fun named apart dup => answers_of _ (claimRequest_refused (claimCheck_dupTag named (mt overlaps_iff.1 apart) dup)),
    fun passes unsatisfied wait full => answers_of _ ?_, fun passes unsatisfied noWait => answers_of _ ?_⟩
  · have noRoom : ¬((s.newSelection p).claims.length < 8 ∧ ((s.newSelection p).claimsOf p).length < 4) := by
      rw [claims_newSelection, claimsOf_newSelection]
      rintro ⟨room, share⟩
      rcases full with h | h
      · omega
      · exact absurd share (by simpa [State.claimsOf] using h)
    rw [waits passes unsatisfied, if_pos wait, if_neg noRoom]
  · rw [waits passes unsatisfied, if_neg (by rw [noWait]; exact Bool.false_ne_true)]

end Claim

/-! ## CANCEL and RELEASE -/

section Withdrawal

variable {s : State} {p : Port} {tag : Byte} {set : ChanSet}

/-- The pending list without the session's claim of the tag (R40). -/
def State.withoutClaim (s : State) (p : Port) (tag : Byte) : State :=
  { s with claims := s.claims.filter fun k => !(s.ownsClaim p k && decide (k.tag = tag)) }

theorem sameBut_withoutClaim (s : State) (p : Port) (tag : Byte) : SameBut [.claims] s (s.withoutClaim p tag) := by
  intro y hy
  cases y <;> simp [Part.Same, State.withoutClaim] at hy ⊢

/-- Settles O14. -/
theorem cancelRemovesClaim : Obligations.CancelRemovesClaim := by
  intro p f s tag taken payload admitted
  have decoded : oneByte f.payload = some tag := by rw [payload]; rfl
  have waits_iff : (((s.newSelection p).claimsOf p).any fun k => decide (k.tag = tag)) = true ↔
      ∃ k ∈ s.claims, s.ownsClaim p k ∧ k.tag = tag := any_claimsOf_tag
  have answers : ∀ r, cancelRequest p tag (s.newSelection p) = (s.newSelection p, some r) →
      OnlyAnswers (.cancel p f) s p kindCancel f r := fun r =>
    onlyAnswers_of_receive (i := .cancel p f) rfl taken (by simp [payload]) decoded (gate_of_admits admitted _)
  refine ⟨fun tagged waits => ?_, fun untagged => answers _ ?_, fun tagged none => answers _ ?_⟩
  · obtain ⟨t, next, same, answered⟩ := exec_granting (i := .cancel p f) (u := s.withoutClaim p tag) rfl taken
      (by simp [payload]) decoded (gate_of_admits admitted _)
      (by rw [cancelRequest, if_neg tagged, if_pos (waits_iff.2 waits)]; rfl) (sameBut_withoutClaim s p tag) (by simp)
    exact ⟨t, s.withoutClaim p tag, next, rfl, sameBut_withoutClaim s p tag, same, answered⟩
  · rw [cancelRequest, if_pos untagged]
    rfl
  · rw [cancelRequest, if_neg tagged, if_neg fun h => none (waits_iff.1 h)]
    rfl

theorem chan_freeSet (s : State) (set : ChanSet) (c : Channel) :
    (s.freeSet set).chan c =
      if inSet set c then (s.chan c).release (s.bankOk c) (s.chan c).config.releaseAction else s.chan c := by
  simp [State.freeSet]

/-- Settles O15. -/
theorem releaseFreesChannels : Obligations.ReleaseFreesChannels := by
  intro p f s set taken payload admitted owned calibrated
  have decoded : releaseOperands f.payload = some set := by rw [payload]; exact releaseOperands_halfBytes set
  have owned_iff : (s.newSelection p).ownsAll p set ↔ owned := ownsAll_iff
  have calibrated_iff : (allChannels.any fun c => inSet set c && (s.newSelection p).calNames c) ↔ calibrated := by
    simp [calibrated, mem_allChannels]
  have answers : ∀ r, releaseRequest p set (s.newSelection p) = (s.newSelection p, some r) →
      OnlyAnswers (.release p f) s p kindRelease f r := fun r =>
    onlyAnswers_of_receive (i := .release p f) rfl taken (by simp [payload]) decoded (gate_of_admits admitted _)
  refine ⟨fun empty => answers _ ?_, fun named foreign => answers _ ?_, fun named mine cal => answers _ ?_,
    fun named mine free => ?_⟩
  · rw [releaseRequest, if_pos empty]
    rfl
  · rw [releaseRequest, if_neg named, if_pos (by simpa using mt owned_iff.1 foreign)]
    rfl
  · rw [releaseRequest, if_neg named, if_neg (by simpa using owned_iff.2 mine), if_pos (calibrated_iff.2 cal)]
    rfl
  · obtain ⟨t, next, same, answered⟩ := exec_granting (i := .release p f) (u := s.freeSet set) rfl taken
      (by simp [payload]) decoded (gate_of_admits admitted _)
      (by
        rw [releaseRequest, if_neg named, if_neg (by simpa using owned_iff.2 mine), if_neg (mt calibrated_iff.1 free)]
        rfl) (sameBut_mapChans s _) (by simp)
    exact ⟨t, s.freeSet set, next, chan_freeSet s set, sameBut_mapChans s _, same, answered⟩

end Withdrawal

/-! ## The grant pass -/

section Pass

variable {u : State}

theorem own_clearReservations_eq_free {c : Channel} :
    (u.clearReservations.chan c).own = .free ↔ (u.chan c).owner = none := by
  rw [own_clearReservations, owner_eq_none]
  split <;> simp_all

theorem chan_clearReservations_of_owned {c : Channel} (owned : (u.chan c).owner.isSome) :
    u.clearReservations.chan c = u.chan c := by
  obtain ⟨q, own⟩ := owner_isSome.1 owned
  rw [chan_clearReservations, if_neg (by simp [own])]

theorem chan_clearReservations_of_unowned {c : Channel} (unowned : (u.chan c).owner = none) :
    u.clearReservations.chan c = { u.chan c with own := .free } := by
  rw [chan_clearReservations]
  rcases owner_eq_none.1 unowned with own | own
  · rw [if_neg (by simp [own]), ← own]
  · rw [if_pos own]

/-- Settles O16: what the walk of the list makes of the state whose reservations are cleared. -/
theorem grantPassSettles : Obligations.GrantPassSettles := by
  intro u
  obtain ⟨granted, rest, walked⟩ := grantPass_walked u
  obtain ⟨marks, listed, marked, grantedMarks, restMarks⟩ := walked.marks
  subst grantedMarks
  subst restMarks
  refine ⟨grantPass_not_grantable u, grantPass_reservedForHead u, marks, listed, fun ahead k taken behind split => ?_,
    walked.claims, fun k hk c inside => ?_, fun c outside owned => ?_, fun c outside unowned => ?_, ?_,
    sameBut_grantPass u⟩
  · rw [marked ahead k taken behind split]
    refine forall_congr' fun c => imp_congr_right fun _ => ?_
    rw [own_clearReservations_eq_free]
    simp only [true_imp_iff]
  · rw [walked.taken k hk c inside, chan_clearReservations]
    split <;> rfl
  · rw [walked.other c outside, chan_clearReservations_of_owned owned, if_neg]
    rintro ⟨-, -, own⟩
    obtain ⟨q, own'⟩ := owner_isSome.1 owned
    simp [own] at own'
  · have head : u.grantPass.reservedByHead c = true ↔
        ∃ k, ((marks.filter fun x => !x.2).map Prod.fst).head? = some k ∧ inSet k.set c := by
      rw [State.reservedByHead, walked.claims]
      cases (marks.filter fun x => !x.2) <;> simp
    rw [walked.other c outside, chan_clearReservations_of_unowned unowned]
    by_cases wanted : ∃ k, ((marks.filter fun x => !x.2).map Prod.fst).head? = some k ∧ inSet k.set c
    · rw [if_pos ⟨rfl, wanted, rfl⟩, if_pos (head.2 wanted)]
    · rw [if_neg fun h => wanted h.2.1, if_neg fun h => wanted (head.1 h)]
  · have handed := walked.handed
    intro q
    rw [handed q]
    rfl

end Pass

end Sys2Proof.Machine

/-! # Channels: entries, the engine's step, the drive code, WRITE and CONFIGURE (chapters 1, 4, 5, 7) -/

namespace Sys2Proof.Machine

/-! ## Entries of the output engine -/

section Entries

variable {r : Chan} {a : Action} {b : Bool} {p : Port}

theorem force_rangeOff (off : r.config.range = .off) : r.force b a = r := by
  rw [Chan.force, if_pos off]

theorem force_bankLost (ranged : r.config.range ≠ .off) : r.force false a = { r with forced := some ⟨a, none⟩ } := by
  rw [Chan.force, if_neg ranged]
  rfl

theorem force_driven (ranged : r.config.range ≠ .off) :
    r.force true a =
      { r with
        drive := .forced, applied := r.actionValue a, forced := some ⟨a, some (r.actionValue a)⟩, timer := none
        held := if a = .hold then some (r.actionValue a) else none } := by
  rw [Chan.force, if_neg ranged, if_pos rfl]

theorem handover_undriven (h : r.config.range = .off ∨ b = false) : r.handover b = r := by
  rw [Chan.handover, if_pos h]

theorem handover_driven (ranged : r.config.range ≠ .off) :
    r.handover true =
      { r with
        drive := .holding, held := some r.applied, forced := none
        timer := if r.config.timeout = 0 then none else some r.config.timeout } := by
  rw [Chan.handover, if_neg (by simp [ranged])]

end Entries

/-- Settles O21. -/
theorem driveEntries : Obligations.DriveEntries := by
  refine ⟨fun r a bankOk => ⟨force_rangeOff, fun ranged lost => ?_, fun ranged ok => ?_⟩,
    fun r bankOk => ⟨handover_undriven, fun ranged ok => ?_⟩, fun r => ?_,
    fun r p bankOk => ⟨fun off run => ?_, fun ranged lost => ?_, fun ranged ok => ?_⟩,
    fun r a bankOk => ⟨fun off => ?_, fun ranged lost => ?_, fun ranged ok => ?_⟩⟩
  · rw [lost, force_bankLost ranged]
  · rw [ok, force_driven ranged]
    rfl
  · rw [ok, handover_driven ranged]
  · cases drive : r.drive <;> simp [Chan.fieldLoss, drive]
  · cases run
    · exact force_rangeOff (by exact off)
    · exact handover_undriven (.inl off)
  · rw [lost]
    exact ⟨handover_undriven (.inr rfl), force_bankLost (by exact ranged)⟩
  · rw [ok]
    exact ⟨handover_driven (by exact ranged), force_driven (by exact ranged)⟩
  · rw [Chan.release, force_rangeOff off]
  · rw [Chan.release, lost, force_bankLost ranged]
  · rw [Chan.release, ok, force_driven ranged]
    rfl

/-! ## The engine's step -/

section Engine

variable {r : Chan} {t : Int}

theorem moveToward_eq (limit : Nat) (a t : Int) :
    moveToward limit a t =
      if (t - a).natAbs ≤ limit then t else if a < t then a + limit else a - limit := rfl

theorem within_iff {n : Nat} {a : Int} : within n a t = true ↔ (t - a).natAbs ≤ n := by
  simp [within]

/-- A ramp step (R80). -/
theorem ramp_eq : r.ramp t =
    if (t - r.applied).natAbs ≤ r.config.rampStep then
      { r with drive := .follow, applied := t, held := none, timer := none }
    else
      { r with applied := if r.applied < t then r.applied + r.config.rampStep else r.applied - r.config.rampStep } := by
  by_cases near : (t - r.applied).natAbs ≤ r.config.rampStep
  · rw [Chan.ramp, if_pos (within_iff.2 near), if_pos near]
    rfl
  · rw [Chan.ramp, if_neg (mt within_iff.1 near), if_neg near, moveToward_eq, if_neg near]

end Engine

/-- Settles O22. -/
theorem engineStepsChannel : Obligations.EngineStepsChannel := by
  refine ⟨fun r point => ⟨fun still => ?_, fun holding free => ?_, fun t holding target mode => ?_,
    fun t h holding target mode held => ?_, fun t ramps target => ?_, fun t follow target => ?_,
    fun v calibrating given => ?_⟩, fun s c => ⟨fun none => ?_, fun x cal => ⟨fun other => ?_, fun same phase => ?_,
    fun same phase => ?_, fun same phase => ?_⟩⟩⟩
  · rcases still with still | still <;> simp [Chan.tick, still]
  · simp [Chan.tick, holding, free]
  · simp [Chan.tick, holding, target, mode, Chan.arrive]
  · have tick : r.tick point = if within r.config.matchWindow r.heldValue t then r.arrive t else r := by
      simp only [Chan.tick, holding, target, mode]
    have value : r.heldValue = h := by simp [Chan.heldValue, held]
    rw [tick, value]
    exact if_congr within_iff rfl rfl
  · rcases ramps with ⟨holding, mode⟩ | ⟨ramping, held, timer⟩
    · have tick : r.tick point = r.startRamp.ramp t := by simp only [Chan.tick, holding, target, mode]
      rw [tick, ramp_eq]
      rfl
    · have tick : r.tick point = r.ramp t := by simp only [Chan.tick, ramping, target]
      rw [tick, ramp_eq, ← ramping, ← held, ← timer]
  · have tick : r.tick point =
        if r.config.slewLimit = 0 then { r with applied := t }
        else { r with applied := moveToward r.config.slewLimit r.applied t } := by
      simp only [Chan.tick, follow, target]
    rw [tick, moveToward_eq]
    by_cases free : r.config.slewLimit = 0
    · rw [if_pos free, if_pos (.inl free)]
    · simp only [free, if_false, false_or]
  · simp [Chan.tick, calibrating, given]
  · simp [State.calValue, none]
  · simp [State.calValue, cal, other]
  · rcases phase with phase | phase | phase <;> simp [State.calValue, cal, same, CalContext.driven, phase]
  · cases range : x.range <;> simp [State.calValue, cal, same, CalContext.driven, phase, DriveRange.rawPoint, range]
  · cases range : x.range <;> simp [State.calValue, cal, same, CalContext.driven, phase, DriveRange.rawPoint, range]

/-! ## The drive code -/

/-- Settles O23. -/
theorem driveCodeFormed : Obligations.DriveCodeFormed := by
  refine ⟨fun d k a => ?_, fun s c => ⟨fun off => ?_, fun d range => ⟨fun driven => ?_, fun x calibrating cal => ?_⟩⟩⟩
  · obtain ⟨near, away⟩ := roundDiv_spec (a * (1000000 + k.gain) + k.offset * 1000000) (den := 1000000) (by decide)
    refine ⟨_, near, away, ?_⟩
    cases d <;> rfl
  · unfold State.driveCode
    rcases off with range | drive
    · simp only [range]
    · cases range : (s.chan c).config.range <;> simp only [range, drive]
  · unfold State.driveCode
    simp only [List.mem_cons, List.not_mem_nil, or_false] at driven
    rcases driven with drive | drive | drive | drive <;> simp [range, drive]
  · unfold State.driveCode
    cases phase : x.phase <;> simp [range, calibrating, cal, phase]

/-! ## Queues -/

section Queues

variable {s : State} {p : Port} {n : Note} {q l : List Note} {k : Nat} {t : Half}

theorem overflowTail_eq_none (h : ∀ l k t, q ≠ l ++ [⟨.overflow k, t⟩]) : overflowTail q = none := by
  cases tail : overflowTail q with
  | none => rfl
  | some x => exact absurd (overflowTail_some (n := x.1) (t := x.2) tail) (h _ _ _)

theorem appendNote_room (h : q.length ≤ 14) : appendNote n q = q ++ [n] := by
  have room : q.length + 1 < Config.queueCapacity := by
    unfold Config.queueCapacity
    omega
  unfold appendNote
  split <;> rw [if_pos room]

theorem appendNote_last (h : q.length = 15) (plain : ∀ l k t, q ≠ l ++ [⟨.overflow k, t⟩]) :
    appendNote n q = q ++ [⟨.overflow 1, n.stamp⟩] := by
  simp [appendNote, overflowTail_eq_none plain, h, Config.queueCapacity]

theorem appendNote_overflow (h : q = l ++ [⟨.overflow k, t⟩]) (full : q.length = 15 ∨ q.length = 16) :
    appendNote n q = l ++ [⟨.overflow (if k < 255 then k + 1 else 255), t⟩] := by
  have count : min 255 (k + 1) = if k < 255 then k + 1 else 255 := by split <;> omega
  have noRoom : ¬q.length + 1 < Config.queueCapacity := by
    unfold Config.queueCapacity
    omega
  have tail : overflowTail q = some (k, t) := h ▸ overflowTail_append l k t
  unfold appendNote
  rw [tail]
  simp only [if_neg noRoom, count]
  rw [h, List.dropLast_concat]

/-- Settles O24. -/
theorem queueTakesRecord : Obligations.QueueTakesRecord := by
  refine ⟨fun n q => ⟨appendNote_room, appendNote_last, fun l k t => appendNote_overflow⟩,
    fun s p b => ⟨sameBut_notify s p b, fun q other => ?_, fun opened => ?_, fun closed => ?_⟩⟩
  · rw [queue_notify, if_neg other.symm]
  · rw [queue_notify, if_pos rfl, if_pos opened]
    rfl
  · rw [queue_notify, if_pos rfl, if_neg (by simp [closed])]

theorem gate_keeping {e : Half} (state : (s.session p).state ≠ .closed) (epoch : e = (s.session p).epoch) :
    s.gate .keeping p e = none := by
  cases h : (s.session p).state <;> simp_all [State.gate]

theorem sameBut_modQueue (f : List Note → List Note) : SameBut [.queues] s (s.modQueue p f) := by
  intro y hy
  cases y <;> simp [Part.Same] at hy ⊢

/-- Settles O25. -/
theorem notesRemovesRecords : Obligations.NotesRemovesRecords := by
  intro p f s n taken payload state epoch
  have decoded : oneByte f.payload = some n := by rw [payload]; rfl
  constructor
  · intro least most
    have block : notesRequest p n (s.newSelection p) =
        ((s.newSelection p).modQueue p fun q => q.drop n.toNat,
          some ⟨.ok, false, .notes ((s.queue p).take n.toNat)⟩) := by
      rw [notesRequest, if_neg (by omega)]
      rfl
    obtain ⟨next, answered, same⟩ := exec_executed (i := .notes p f) rfl taken (by simp [payload]) decoded
      (gate_keeping state epoch) block (sameBut_modQueue _) (by simp)
    have queue : ∀ q, (((s.newSelection p).modQueue p fun q => q.drop n.toNat).complete p kindNotes f.seq
        ⟨.ok, false, .notes ((s.queue p).take n.toNat)⟩).queue q =
          if p = q then (s.queue p).drop n.toNat else s.queue q := fun q => by
      rw [queue_complete, queue_modQueue]
      rfl
    refine ⟨_, next, (queue p).trans (if_pos rfl), fun q other => (queue q).trans (if_neg other.symm), ?_, answered,
      same.weaken (by simp)⟩
    rw [State.attn, queue, if_pos rfl, Bool.eq_iff_iff]
    simp
  · intro bad
    refine onlyAnswers_of_receive (i := .notes p f) rfl taken (by simp [payload]) decoded (gate_keeping state epoch) ?_
    rw [notesRequest, if_pos bad]
    rfl

end Queues

/-! ## WRITE -/

section Write

variable {s : State} {p : Port} {l : List (Channel × Int)}

theorem find?_of_mem (distinct : (l.map Prod.fst).Nodup) {x : Channel × Int} (there : x ∈ l) :
    (l.find? fun y => decide (y.1 = x.1)) = some x := by
  cases found : l.find? fun y => decide (y.1 = x.1) with
  | none =>
    have := List.find?_eq_none.1 found x there
    simp at this
  | some y =>
    have same : y.1 = x.1 := by simpa using List.find?_some found
    exact congrArg some (List.inj_on_of_nodup_map distinct (List.mem_of_find?_eq_some found) there same)

theorem chan_storeTargets_mem (distinct : (l.map Prod.fst).Nodup) {x : Channel × Int} (there : x ∈ l) :
    (s.storeTargets l).chan x.1 = { s.chan x.1 with target := some (s.clampTo x.1 x.2) } := by
  rw [chan_storeTargets, find?_of_mem distinct there]

theorem chan_storeTargets_not_mem {c : Channel} (other : c ∉ l.map Prod.fst) :
    (s.storeTargets l).chan c = s.chan c := by
  have none : (l.find? fun x => decide (x.1 = c)) = none := by
    rw [List.find?_eq_none]
    intro x there
    simpa using fun same : x.1 = c => other (same ▸ List.mem_map_of_mem there)
  rw [chan_storeTargets, none]

theorem writeCheck_eq_none (distinct : (l.map Prod.fst).Nodup) (mine : ∀ x ∈ l, (s.chan x.1).own = .owned p)
    (ranged : ∀ x ∈ l, (s.chan x.1).config.range ≠ .off) : s.writeCheck p l = none := by
  have owned : (l.all fun x => (s.chan x.1).ownedBy p) = true := by
    simpa [Chan.ownedBy] using fun c v there => mine (c, v) there
  have driving : (l.all fun x => (s.chan x.1).ranged) = true := by
    simpa [Chan.ranged] using fun c v there => ranged (c, v) there
  simp [State.writeCheck, distinct, owned, driving]

/-- Settles O17. -/
theorem writeStoresTargets : Obligations.WriteStoresTargets := by
  intro p f s l taken payload admitted least most distinct fields mine ranged limits stored clamped ticks
  have clamp : ∀ x : Channel × Int, s.clampTo x.1 x.2 = stored x := by
    intro x
    simp only [stored, State.clampTo, clampInt]
    cases h : (s.chan x.1).config.range with
    | off => rfl
    | driving d => cases d <;> rfl
  have entries : (s.newSelection p).clampedEntries l = clamped := by
    simp only [clamped, ← clamp]
    rfl
  have block : writeRequest p (l.map fun x => (channelByte x.1, x.2)) (s.newSelection p) =
      (((s.newSelection p).storeTargets l).refreshLease p,
        some ⟨.ok, decide (clamped ≠ []), .written clamped⟩) := by
    have check : (s.newSelection p).writeCheck p l = none := writeCheck_eq_none distinct mine ranged
    rw [writeRequest, if_neg (by rw [List.length_map]; omega), namedEntries_bytes]
    simp only [check, entries]
    congr 3
    rw [Bool.eq_iff_iff]
    simp
  have changed : SameBut [.chans, .sessions, .renewed] (s.newSelection p)
      (((s.newSelection p).storeTargets l).refreshLease p) :=
    SameBut.trans ((sameBut_storeTargets _ l).weaken (by simp)) ((sameBut_refreshLease _ p).weaken (by simp))
  have short : f.payload.length ≤ 40 := by
    rw [payload, writePayload, List.length_cons, length_writeEntryBytes]
    omega
  obtain ⟨next, answered, same⟩ := exec_executed (i := .write p f) rfl taken (by simpa using short)
    (payload ▸ writeOperands_writePayload (by omega) fields) (gate_of_admits admitted _) block changed (by simp)
  have session : ∀ q, ((s.newSelection p).storeTargets l).session q = s.session q := fun q =>
    (sameBut_storeTargets (s.newSelection p) l).session (by simp) q
  have chan : ∀ c, ((((s.newSelection p).storeTargets l).refreshLease p).complete p kindWrite f.seq
      ⟨.ok, decide (clamped ≠ []), .written clamped⟩).chan c = (s.storeTargets l).chan c := fun c => by
    rw [chan_complete, (sameBut_refreshLease _ p).chan (by simp)]
    rfl
  refine ⟨_, next, fun x there => ?_, fun c other => ?_, ?_, fun q other => ?_, fun q => ?_, answered,
    same.weaken (by simp)⟩
  · rw [chan, chan_storeTargets_mem distinct there, clamp]
  · rw [chan, chan_storeTargets_not_mem other]
  · rw [session_complete, session_refreshLease, if_pos rfl, session]
  · rw [session_complete, session_refreshLease, if_neg other.symm, session]
  · rw [renewed_complete, renewed_refreshLease_iff, unitDue_iff]
    rfl

end Write

/-! ## The checks of CONFIGURE -/

section Codes

variable {b : Byte}

/-- The range codes of R173, with the limits of R3. -/
theorem rangeOf_cases (b : Byte) :
    (4 < b.toNat ∧ rangeOf b = none) ∨
      b.toNat ≤ 4 ∧ ∃ r, rangeOf b = some r ∧ ∀ v, r.admits v ↔
        (b = 0 → v = 0) ∧ (b = 1 → 0 ≤ v ∧ v ≤ 10500) ∧ (b = 2 → -10500 ≤ v ∧ v ≤ 10500) ∧
          (b = 3 → 0 ≤ v ∧ v ≤ 10500) ∧ (b = 4 → -2500 ≤ v ∧ v ≤ 10500) := by
  by_cases known : b.toNat ≤ 4
  · refine .inr ⟨known, ?_⟩
    obtain rfl | rfl | rfl | rfl | rfl : b = 0 ∨ b = 1 ∨ b = 2 ∨ b = 3 ∨ b = 4 := by bv_omega
    · exact ⟨.off, rfl, fun v => by simp [range_admits_iff]⟩
    · exact ⟨.driving .v10, rfl, fun v => by simp [range_admits_iff]⟩
    · exact ⟨.driving .vb10, rfl, fun v => by simp [range_admits_iff]⟩
    · exact ⟨.driving .i20, rfl, fun v => by simp [range_admits_iff]⟩
    · exact ⟨.driving .i420, rfl, fun v => by simp [range_admits_iff]⟩
  · refine .inl ⟨by omega, ?_⟩
    unfold rangeOf
    split <;> first | omega | rfl

theorem yesNoOf_isSome : (yesNoOf b).isSome ↔ b.toNat ≤ 1 := by
  unfold yesNoOf
  split <;> simp_all
  omega

theorem handoverOf_isSome : (handoverOf b).isSome ↔ b.toNat ≤ 2 := by
  unfold handoverOf
  split <;> simp_all
  omega

theorem actionOf_isSome : (actionOf b).isSome ↔ b.toNat ≤ 2 := by
  unfold actionOf
  split <;> simp_all
  omega

/-- The record is accepted when every code is named and every bound of R13 is met (R11 check 5). -/
theorem record_isSome {a : ConfigureOperands} :
    a.record.isSome ↔ ((rangeOf a.range).isSome ∧ (yesNoOf a.preemptible).isSome ∧ (handoverOf a.handover).isSome ∧
      (actionOf a.idleAction).isSome ∧ (actionOf a.lapseAction).isSome ∧ (actionOf a.releaseAction).isSome) ∧
      (∀ r, rangeOf a.range = some r → r.admits a.safe) ∧ 1 ≤ a.matchWindow.toNat ∧ a.matchWindow.toNat ≤ 2000 ∧
      a.slewLimit.toNat ≤ 10000 ∧ 1 ≤ a.rampStep.toNat ∧ a.rampStep.toNat ≤ 10000 ∧ 50 ≤ a.deviationLimit.toNat ∧
      a.deviationLimit.toNat ≤ 2000 := by
  have timeout : a.timeout.toNat ≤ 255 := by omega
  unfold ConfigureOperands.record
  cases rangeOf a.range with
  | none => simp
  | some r =>
    cases yesNoOf a.preemptible with
    | none => simp
    | some y =>
      cases handoverOf a.handover with
      | none => simp
      | some m =>
        cases actionOf a.idleAction with
        | none => simp
        | some i =>
          cases actionOf a.lapseAction with
          | none => simp
          | some e =>
            cases actionOf a.releaseAction with
            | none => simp
            | some x =>
              simp only [Option.isSome_some, true_and, Option.some.injEq, forall_eq', Option.isSome_ite, inBounds_iff,
                timeout]
              tauto

end Codes

section ConfigureChecks

variable {s : State} {p : Port} {c : Channel}

theorem running_of_admits {f : Frame} (admitted : s.admits p f) : s.running p ↔ (s.session p).state ≠ .idle := by
  rw [running_iff]
  rcases sessionOpen_iff.1 (admits_iff.1 admitted).1 with state | state <;> simp [state]

theorem configureCheck_notOwner (foreign : (s.chan c).own ≠ .owned p) : s.configureCheck p c = some .notOwner := by
  simp [State.configureCheck, Chan.ownedBy, foreign]

theorem configureCheck_notIdle (mine : (s.chan c).own = .owned p) (run : s.running p)
    (ranged : (s.chan c).config.range ≠ .off) : s.configureCheck p c = some .notIdle := by
  simp [State.configureCheck, Chan.ownedBy, Chan.ranged, mine, run, ranged]

theorem configureCheck_calBusy (mine : (s.chan c).own = .owned p)
    (quiet : ¬(s.running p ∧ (s.chan c).config.range ≠ .off))
    (named : s.calNames c) : s.configureCheck p c = some .calBusy := by
  have still : (s.running p && (s.chan c).ranged) = false := by
    simpa [Chan.ranged] using quiet
  simp [State.configureCheck, Chan.ownedBy, mine, still, named]

theorem configureRequest_refused {a : ConfigureOperands} {r : Result} (channel : channelOf a.channel = some c)
    (check : s.configureCheck p c = some r) : configureRequest p a s = (s, some (plain r)) := by
  simp [configureRequest, channel, check]

theorem configureRequest_badArg {a : ConfigureOperands} (channel : channelOf a.channel = some c)
    (check : s.configureCheck p c = none) (refused : a.record = none) :
    configureRequest p a s = (s, some (plain .badArg)) := by
  simp [configureRequest, channel, check, refused]

end ConfigureChecks

/-! ## The checks of WRITE -/

section WriteChecks

variable {s : State} {p : Port} {l : List (Byte × Int)} {m : List (Channel × Int)}

/-- The channels of the entries, one way and the other. -/
theorem entry_of_named (same : m.map (fun x => (x.1.val, x.2)) = l.map fun x => (x.1.toNat, x.2)) {P : Channel → Prop} :
    (∀ x ∈ l, ∀ c : Channel, x.1.toNat = c.val → P c) ↔ ∀ y ∈ m, P y.1 := by
  constructor
  · intro all y hy
    obtain ⟨x, hx, e⟩ : ∃ x ∈ l, (x.1.toNat, x.2) = (y.1.val, y.2) := by
      have := List.mem_map_of_mem (f := fun x : Channel × Int => (x.1.val, x.2)) hy
      rw [same] at this
      simpa using this
    exact all x hx y.1 (congrArg Prod.fst e)
  · intro all x hx c e
    obtain ⟨y, hy, e'⟩ : ∃ y ∈ m, (y.1.val, y.2) = (x.1.toNat, x.2) := by
      have := List.mem_map_of_mem (f := fun x : Byte × Int => (x.1.toNat, x.2)) hx
      rw [← same] at this
      simpa using this
    have channel : y.1 = c := Fin.ext ((congrArg Prod.fst e').trans e)
    exact channel ▸ all y hy

theorem nodup_of_named (same : m.map (fun x => (x.1.val, x.2)) = l.map fun x => (x.1.toNat, x.2)) :
    (m.map Prod.fst).Nodup ↔ (l.map Prod.fst).Nodup := by
  have numbers : (m.map Prod.fst).map Fin.val = (l.map Prod.fst).map BitVec.toNat := by
    rw [List.map_map, List.map_map]
    have := congrArg (List.map Prod.fst) same
    rw [List.map_map, List.map_map] at this
    exact this
  rw [← List.nodup_map_iff Fin.val_injective, numbers, List.nodup_map_iff fun a b => BitVec.eq_of_toNat_eq]

theorem writeRequest_badArg (bad : l = [] ∨ 8 < l.length ∨ (∃ x ∈ l, 15 < x.1.toNat) ∨ ¬(l.map Prod.fst).Nodup) :
    writeRequest p l s = (s, some (plain .badArg)) := by
  unfold writeRequest
  by_cases count : l.length = 0 ∨ 8 < l.length
  · rw [if_pos count]
  · rw [if_neg count]
    by_cases unknown : ∃ x ∈ l, 15 < x.1.toNat
    · rw [namedEntries_eq_none unknown]
    · obtain ⟨m, named, same⟩ := namedEntries_of_le l (by push Not at unknown; exact unknown)
      have twice : ¬(m.map Prod.fst).Nodup := by
        rw [nodup_of_named same]
        rcases bad with rfl | h | h | h
        · simp at count
        · exact absurd (.inr h) count
        · exact absurd h unknown
        · exact h
      simp [named, State.writeCheck, twice]

theorem writeRequest_named (good : ¬(l = [] ∨ 8 < l.length ∨ (∃ x ∈ l, 15 < x.1.toNat) ∨ ¬(l.map Prod.fst).Nodup)) :
    ∃ m, m.map (fun x => (x.1.val, x.2)) = l.map (fun x => (x.1.toNat, x.2)) ∧ (m.map Prod.fst).Nodup ∧
      ∀ r, s.writeCheck p m = some r → writeRequest p l s = (s, some (plain r)) := by
  push Not at good
  obtain ⟨some, most, known, distinct⟩ := good
  obtain ⟨m, named, same⟩ := namedEntries_of_le l known
  refine ⟨m, same, (nodup_of_named same).2 distinct, fun r check => ?_⟩
  have count : ¬(l.length = 0 ∨ 8 < l.length) := by
    rintro (h | h)
    · exact some (List.length_eq_zero_iff.1 h)
    · omega
  rw [writeRequest, if_neg count, named]
  simp only [check]

theorem writeCheck_notOwner (distinct : (m.map Prod.fst).Nodup) (foreign : ¬∀ y ∈ m, (s.chan y.1).own = .owned p) :
    s.writeCheck p m = some .notOwner := by
  have mine : (m.all fun x => (s.chan x.1).ownedBy p) = false := by
    rw [← Bool.not_eq_true, List.all_eq_true]
    simpa only [ownedBy_iff] using foreign
  simp [State.writeCheck, distinct, mine]

theorem writeCheck_notConfigured (distinct : (m.map Prod.fst).Nodup) (mine : ∀ y ∈ m, (s.chan y.1).own = .owned p)
    (unranged : ¬∀ y ∈ m, (s.chan y.1).config.range ≠ .off) : s.writeCheck p m = some .notConfigured := by
  have owned : (m.all fun x => (s.chan x.1).ownedBy p) = true := by
    rw [List.all_eq_true]
    simpa only [ownedBy_iff] using mine
  have off : (m.all fun x => (s.chan x.1).ranged) = false := by
    rw [← Bool.not_eq_true, List.all_eq_true]
    simpa only [Chan.ranged, decide_eq_true_eq] using unranged
  simp [State.writeCheck, distinct, owned, off]

end WriteChecks

theorem readRequest_badArg {s : State} {l : List Byte} (bad : l = [] ∨ 3 < l.length ∨ (∃ b ∈ l, 15 < b.toNat)) :
    readRequest l s = (s, some (plain .badArg)) := by
  unfold readRequest
  by_cases count : l.length = 0 ∨ 3 < l.length
  · rw [if_pos count]
  · have unknown : ∃ b ∈ l, 15 < b.toNat := by
      rcases bad with rfl | h | h
      · simp at count
      · exact absurd (.inr h) count
      · exact h
    rw [if_neg count, namedChannels_eq_none unknown]

/-- Settles O19. -/
theorem channelRequestChecks : Obligations.ChannelRequestChecks := by
  refine ⟨?_, ?_, ?_⟩
  · intro p f s channel range preemptible handover timeout idle lapse release window slew ramp deviation safe
      taken payload
      low high admitted answers codesNamed safeWithin accepted
    set a : ConfigureOperands := ⟨channel, range, preemptible, handover, window, slew, ramp, timeout, idle,
      lapse, release,
      safe, deviation⟩ with ha
    have decoded : configureOperands f.payload = some a := by
      obtain ⟨w₁, w₀, ew, vw⟩ := half_halfBytes window
      obtain ⟨s₁, s₀, es, vs⟩ := half_halfBytes slew
      obtain ⟨r₁, r₀, er, vr⟩ := half_halfBytes ramp
      obtain ⟨d₁, d₀, ed, vd⟩ := half_halfBytes deviation
      obtain ⟨v₁, v₀, ev, vv⟩ := signed_signedBytes low high
      rw [payload, ew, es, er, ed, ev]
      simp [configureOperands, vw, vs, vr, vd, vv, ha]
    have accepted_iff : a.record.isSome ↔ accepted := by
      rw [record_isSome, yesNoOf_isSome, handoverOf_isSome, actionOf_isSome, actionOf_isSome, actionOf_isSome]
      rcases rangeOf_cases range with ⟨unknown, none⟩ | ⟨known, r, some, admits⟩
      · simp only [ha, none, accepted, codesNamed]
        simp
        omega
      · simp only [ha, some, accepted, codesNamed, safeWithin, Option.isSome_some, true_and,
          Option.some.injEq, forall_eq',
          admits, known]
    have short : f.payload.length ≤ 40 := by simp [payload]
    have answers_of : ∀ r, configureRequest p a (s.newSelection p) = (s.newSelection p, some (plain r)) → answers r :=
      fun r => onlyAnswers_of_receive (i := .configure p f) rfl taken (by simpa using short) decoded
        (gate_of_admits admitted _)
    refine ⟨fun unknown => answers_of _ ?_, fun c number => ?_⟩
    · simp [configureRequest, ha, channelOf_eq_none unknown]
    intro driving
    have named : channelOf a.channel = some c := channelOf_eq_some number
    have driving_iff : (s.newSelection p).running p ∧ ((s.newSelection p).chan c).config.range ≠ .off ↔ driving :=
      and_congr_left' (running_of_admits admitted)
    have passes : (s.chan c).own = .owned p → ¬driving → s.calNames c = false →
        (s.newSelection p).configureCheck p c = none := by
      intro mine still free
      refine configureCheck_eq_none mine ?_ free
      by_contra other
      push Not at other
      exact still other
    refine ⟨fun foreign => answers_of _ (configureRequest_refused named (configureCheck_notOwner foreign)),
      fun mine drives => ?_, fun mine still cal => ?_, fun mine still free refused => ?_,
        fun mine still free good => ?_⟩
    · obtain ⟨run, ranged⟩ := driving_iff.2 drives
      exact answers_of _ (configureRequest_refused named (configureCheck_notIdle mine run ranged))
    · exact answers_of _ (configureRequest_refused named (configureCheck_calBusy mine (mt driving_iff.1 still) cal))
    · exact answers_of _ (configureRequest_badArg named (passes mine still free)
        (Option.not_isSome_iff_eq_none.1 (mt accepted_iff.1 refused)))
    · obtain ⟨k, record⟩ := Option.isSome_iff_exists.1 (accepted_iff.2 good)
      obtain ⟨next, answered, -⟩ := exec_executed (i := .configure p f) rfl taken (by simpa using short) decoded
        (gate_of_admits admitted _) (configureRequest_accepted named (passes mine still free) record)
        (sameBut_configure _ p c k) (by simp)
      exact ⟨_, next, answered⟩
  · intro p f s l taken short decoded admitted answers bad owned ranged
    have answers_of : ∀ r, writeRequest p l (s.newSelection p) = (s.newSelection p, some (plain r)) → answers r :=
      fun r => onlyAnswers_of_receive (i := .write p f) rfl taken (by simpa using short) decoded
        (gate_of_admits admitted _)
    refine ⟨fun h => answers_of _ (writeRequest_badArg h), fun good foreign => ?_, fun good mine unranged => ?_⟩
    · obtain ⟨m, same, distinct, refused⟩ := writeRequest_named (s := s.newSelection p) (p := p) good
      refine answers_of _ (refused _ (writeCheck_notOwner distinct ?_))
      exact fun all => foreign ((entry_of_named same (P := fun c => (s.chan c).own = .owned p)).2 all)
    · obtain ⟨m, same, distinct, refused⟩ := writeRequest_named (s := s.newSelection p) (p := p) good
      refine answers_of _ (refused _ (writeCheck_notConfigured distinct ?_ ?_))
      · exact (entry_of_named same (P := fun c => (s.chan c).own = .owned p)).1 mine
      · exact fun all => unranged ((entry_of_named same (P := fun c => (s.chan c).config.range ≠ .off)).2 all)
  · intro p f s l taken short decoded bad
    exact onlyAnswers_of_receive (i := .read p f) rfl taken (by simpa using short) decoded (gate_exempt _)
      (readRequest_badArg bad)

end Sys2Proof.Machine

/-! # Calibration, the completion of a commit and the start-up load (chapter 8) -/

namespace Sys2Proof.Machine

/-! ## The steps of the holder and their refusals -/

section Steps

variable {s : State} {p : Port} {x : CalContext} {b : Byte}

/-- A step refused at its block carries the refusal of R140. -/
theorem onlyAnswers_calRefusal {α : Type} {lead : List Byte} {f : Frame} {refusal : Payload}
    {operands : List Byte → Option α} {run : α → State → State × Option Reply} {a : α} {r : Result} {i : Instr}
    (exec_i : exec i s = .next (s.receive p kindCal lead f .gated refusal operands run))
      (taken : s.takes p kindCal lead f)
    (admitted : s.admits p f) (short : lead.length + f.payload.length ≤ 40) (decoded : operands f.payload = some a)
    (block : run a (s.newSelection p) = (s.newSelection p, some (s.calRefusal p r))) :
    OnlyAnswers i s p kindCal f (s.calRefusal p r) :=
  onlyAnswers_of_receive exec_i taken short decoded (gate_of_admits admitted _) block

/-! ### BEGIN -/

theorem beginCheck_error {c : Channel} (number : b.toNat = c.val) :
    (s.cal ≠ none → s.beginCheck p b = .error .calBusy) ∧
      (s.cal = none → (s.chan c).own ≠ .owned p → s.beginCheck p b = .error .notOwner) ∧
      (s.cal = none → (s.chan c).own = .owned p → s.running p → s.beginCheck p b = .error .notIdle) ∧
      (s.cal = none → (s.chan c).own = .owned p → s.running p = false → (s.chan c).config.range = .off →
        s.beginCheck p b = .error .notConfigured) ∧
      ∀ d, s.cal = none → (s.chan c).own = .owned p → s.running p = false → (s.chan c).config.range = .driving d →
        s.bankOk c = false → s.beginCheck p b = .error .fieldLost := by
  have named := channelOf_eq_some number
  refine ⟨fun busy => ?_, fun free foreign => ?_, fun free mine run => ?_, fun free mine idle off => ?_,
    fun d free mine idle range lost => ?_⟩
  · simp [State.beginCheck, named, Option.isSome_iff_ne_none.2 busy]
  · simp [State.beginCheck, named, free, Chan.ownedBy, foreign]
  · simp [State.beginCheck, named, free, Chan.ownedBy, mine, run]
  · simp [State.beginCheck, named, free, Chan.ownedBy, mine, idle, off]
  · simp [State.beginCheck, named, free, Chan.ownedBy, mine, idle, range, lost]

theorem beginCheck_accepted {c : Channel} {d : DriveRange} (number : b.toNat = c.val) (free : s.cal = none)
    (mine : (s.chan c).own = .owned p) (idle : s.running p = false) (range : (s.chan c).config.range = .driving d)
    (ok : s.bankOk c) :
    s.beginCheck p b =
      .ok { phase := .opened, port := p, epoch := (s.session p).epoch, channel := c, range := d
            start := (s.chan c).applied, measuredLow := none, measuredHigh := none, computed := none } := by
  simp [State.beginCheck, channelOf_eq_some number, free, Chan.ownedBy, mine, idle, range, ok]

theorem calBeginRequest_refused {r : Result} (check : s.beginCheck p b = .error r) :
    calBeginRequest p b (s.newSelection p) = (s.newSelection p, some (s.calRefusal p r)) := by
  rw [calBeginRequest, beginCheck_newSelection, check]
  rfl

/-- Settles O26. -/
theorem calBeginOpensContext : Obligations.CalBeginOpensContext := by
  intro p f s b taken payload admitted refuses
  have decoded : oneByte f.payload = some b := by rw [payload]; rfl
  have refuse : ∀ r, s.beginCheck p b = .error r → refuses r := fun r check =>
    onlyAnswers_calRefusal (i := .calBegin p f) rfl taken admitted (by simp [payload]) decoded
      (calBeginRequest_refused check)
  refine ⟨fun unknown => refuse _ (by simp [State.beginCheck, channelOf_eq_none unknown]), fun c number => ?_⟩
  obtain ⟨busy, foreign, run, off, lost⟩ := beginCheck_error (s := s) (p := p) number
  have idle_of : (s.session p).state = .idle → s.running p = false := fun idle => by simp [State.running, idle]
  refine ⟨fun h => refuse _ (busy h), fun free h => refuse _ (foreign free h),
    fun free mine h => refuse _ (run free mine (running_iff.2 h)),
    fun free mine idle h => refuse _ (off free mine (idle_of idle) h), fun d free mine idle range => ?_⟩
  refine ⟨fun h => refuse _ (lost d free mine (idle_of idle) range h), fun ok => ?_⟩
  have accepted := beginCheck_accepted number free mine (idle_of idle) range ok
  set x : CalContext := { phase := .opened, port := p, epoch := (s.session p).epoch, channel := c, range := d
                          start := (s.chan c).applied, measuredLow := none, measuredHigh := none
                          computed := none } with hx
  have block : calBeginRequest p b (s.newSelection p) =
      ((s.newSelection p).beginCal x, some (calReply .ok (some c) (some .opened))) := by
    rw [calBeginRequest, beginCheck_newSelection, accepted]
  obtain ⟨next, answered, same⟩ := exec_executed (i := .calBegin p f) rfl taken (by simp [payload]) decoded
    (gate_of_admits admitted _) block (sameBut_beginCal _ x) (by simp)
  refine ⟨_, next, rfl, ?_, fun e other => ?_, answered, same.weaken (by simp)⟩
  · rw [chan_complete, chan_beginCal, if_pos rfl]
    rfl
  · rw [chan_complete, chan_beginCal, if_neg other.symm]
    rfl

/-! ### DRIVE and MEASURE -/

theorem working_of_ne {phase : CalPhase} (h : phase ≠ .committing) : phase.working := by
  cases phase <;> simp_all [CalPhase.working]

theorem calDriveRequest_accepted {point : CalPoint} (held : s.heldContext p = some x)
    (working : x.phase ≠ .committing) :
    calDriveRequest p point.byte s =
      (s.setCal { x with phase := point.phase, computed := none },
        some (calReply .ok (some x.channel) (some point.phase))) := by
  simp [calDriveRequest, held, working_of_ne working]

theorem calDriveRequest_badArg (held : s.heldContext p = some x) (unknown : 1 < b.toNat) :
    calDriveRequest p b s = (s, some (s.calRefusal p .badArg)) := by
  simp [calDriveRequest, held, pointOf_eq_none unknown]

theorem calMeasureRequest_badArg {v : Int} (held : s.heldContext p = some x)
    (bad : 1 < b.toNat ∨ v < -12000 ∨ 12000 < v) :
    calMeasureRequest p (b, v) s = (s, some (s.calRefusal p .badArg)) := by
  unfold calMeasureRequest
  rw [held]
  cases point : pointOf b with
  | none => rfl
  | some y =>
    have out : v < -12000 ∨ 12000 < v := by
      refine bad.resolve_left fun unknown => ?_
      rw [pointOf_eq_none unknown] at point
      cases point
    simp only [out, if_true]

/-- A value within the bounds, at a known point (R143). -/
theorem calMeasureRequest_known {v : Int} {point : CalPoint} (held : s.heldContext p = some x) (low : -12000 ≤ v)
    (high : v ≤ 12000) :
    calMeasureRequest p (point.byte, v) s =
      if x.phase = point.phase then
        ({ s with cal := some (x.measure v point) }, some (calReply .ok (some x.channel) (some x.phase)))
      else (s, some (s.calRefusal p .calState)) := by
  have within : ¬(v < -12000 ∨ 12000 < v) := by omega
  unfold calMeasureRequest
  rw [held, pointOf_byte]
  simp only [within, if_false]

theorem sameBut_cal (c : Option CalContext) : SameBut [.cal] s { s with cal := c } := by
  intro y hy
  cases y <;> simp [Part.Same] at hy ⊢

/-- Settles O27. -/
theorem calDriveAndMeasure : Obligations.CalDriveAndMeasure := by
  refine ⟨?_, ?_⟩
  · intro p f s x b taken payload admitted cal port epoch
    have holds := holdsCal_of cal port epoch
    have held : (s.newSelection p).heldContext p = some x := heldContext_of_holdsCal cal holds
    have decoded : oneByte f.payload = some b := by rw [payload]; rfl
    refine ⟨fun unknown => ?_, fun point byte working => ?_⟩
    · rw [← calRefusal_of_holdsCal cal holds]
      exact onlyAnswers_calRefusal (i := .calDrive p f) rfl taken admitted (by simp [payload]) decoded
        (calDriveRequest_badArg held unknown)
    · intro phase raw
      have phase_eq : point.phase = phase := by cases point <;> rfl
      have raw_eq : ({ x with phase := point.phase, computed := none } : CalContext).driven = raw := by
        cases point <;> cases range : x.range <;>
          simp [CalContext.driven, CalPoint.phase, DriveRange.rawPoint, raw, range]
      obtain ⟨next, answered, same⟩ := exec_executed (i := .calDrive p f) rfl taken (by simp [payload])
        decoded (gate_of_admits admitted _) (byte ▸ calDriveRequest_accepted held working)
          (sameBut_setCal _ _) (by simp)
      refine ⟨_, next, ?_, ?_, fun e other => ?_, ?_, same.weaken (by simp)⟩
      · rw [cal_complete, cal_setCal, phase_eq]
      · rw [chan_complete, chan_setCal, if_pos rfl, raw_eq]
        rfl
      · rw [chan_complete, chan_setCal, if_neg other.symm]
        rfl
      · rw [← phase_eq]
        exact answered
  · intro p f s x b v taken payload low high admitted cal port epoch
    have holds := holdsCal_of cal port epoch
    have held : (s.newSelection p).heldContext p = some x := heldContext_of_holdsCal cal holds
    have decoded : measureOperands f.payload = some (b, v) := by
      obtain ⟨v₁, v₀, bytes, value⟩ := signed_signedBytes low high
      simp [payload, bytes, measureOperands, value]
    refine ⟨fun bad => ?_, fun point byte least most => ⟨?_, ?_⟩⟩
    · rw [← calRefusal_of_holdsCal cal holds]
      exact onlyAnswers_calRefusal (i := .calMeasure p f) rfl taken admitted (by simp [payload]) decoded
        (calMeasureRequest_badArg held bad)
    · intro other
      have off : x.phase ≠ point.phase := fun e => other (by
        cases point
        · exact .inl ⟨rfl, e⟩
        · exact .inr ⟨rfl, e⟩)
      rw [← calRefusal_of_holdsCal cal holds]
      refine onlyAnswers_calRefusal (i := .calMeasure p f) rfl taken admitted (by simp [payload]) decoded ?_
      rw [byte, calMeasureRequest_known held least most, if_neg off]
      rfl
    · intro here
      have on : x.phase = point.phase := by
        rcases here with ⟨rfl, e⟩ | ⟨rfl, e⟩ <;> exact e
      have block : calMeasureRequest p (b, v) (s.newSelection p) =
          ({ s.newSelection p with cal := some (x.measure v point) },
            some (calReply .ok (some x.channel) (some x.phase))) := by
        rw [byte, calMeasureRequest_known held least most, if_pos on]
      obtain ⟨next, answered, same⟩ := exec_executed (i := .calMeasure p f) rfl taken (by simp [payload])
        decoded (gate_of_admits admitted _) block (sameBut_cal _) (by simp)
      refine ⟨_, next, ?_, ?_, answered, same.weaken (by simp)⟩
      · rintro rfl
        rfl
      · rintro rfl
        rfl

/-! ### COMPUTE -/

theorem calComputeRequest_measured {mL mH : Int} (held : s.heldContext p = some x)
    (phase : x.phase ∈ [CalPhase.low, .high, .computed]) (low : x.measuredLow = some mL)
      (high : x.measuredHigh = some mH) :
    calComputeRequest p () s = s.compute x mL mH := by
  have measurable : x.phase.measurable := by
    simp only [List.mem_cons, List.not_mem_nil, or_false] at phase
    rcases phase with e | e | e <;> rw [e] <;> rfl
  simp [calComputeRequest, held, measurable, low, high]

theorem inLimits_iff {k : Coeff} :
    k.inLimits ↔ -50000 ≤ k.gain ∧ k.gain ≤ 50000 ∧ -200 ≤ k.offset ∧ k.offset ≤ 200 := by
  simp [Coeff.inLimits, and_assoc]

/-- The corrections are the nearest whole numbers (R144). -/
theorem corrections_nearest {d : DriveRange} {mL mH : Int} (rises : 0 < mH - mL) :
    let k := d.corrections mL mH
    let gain := (d.rawPoint .high - d.rawPoint .low - (mH - mL)) * 1000000
    let offset := d.rawPoint .low * 1000000 - mL * (1000000 + k.gain)
    (2 * (k.gain * (mH - mL) - gain).natAbs ≤ (mH - mL).natAbs ∧
      (2 * (k.gain * (mH - mL) - gain).natAbs = (mH - mL).natAbs → gain.natAbs < (k.gain * (mH - mL)).natAbs)) ∧
      2 * (k.offset * 1000000 - offset).natAbs ≤ 1000000 ∧
      (2 * (k.offset * 1000000 - offset).natAbs = 1000000 → offset.natAbs < (k.offset * 1000000).natAbs) := by
  intro k gain offset
  obtain ⟨n, span⟩ : ∃ n : Nat, mH - mL = n := ⟨_, (Int.toNat_of_nonneg rises.le).symm⟩
  have gained := roundDiv_spec gain (den := n) (by omega)
  have gain_eq : k.gain = roundDiv gain n := by
    show roundDiv gain (mH - mL).toNat = _
    rw [span, Int.toNat_natCast]
  refine ⟨?_, roundDiv_spec offset (den := 1000000) (by decide)⟩
  rw [gain_eq, span]
  exact gained

/-- Settles O28. -/
theorem calComputeFormsCorrections : Obligations.CalComputeFormsCorrections := by
  intro p f s x mL mH taken payload admitted cal port epoch phase measuredLow measuredHigh low span
  have held : (s.newSelection p).heldContext p = some x := heldContext_of_holdsCal cal (holdsCal_of cal port epoch)
  have decoded : noOperands f.payload = some () := by rw [payload]; rfl
  have block := calComputeRequest_measured held phase measuredLow measuredHigh
  have answers : ∀ r, (s.newSelection p).compute x mL mH = (s.newSelection p, some r) →
      OnlyAnswers (.calCompute p f) s p kindCal f r := fun r h =>
    onlyAnswers_of_receive (i := .calCompute p f) rfl taken (by simp [payload]) decoded (gate_of_admits admitted _)
      (block.trans h)
  refine ⟨fun falls => answers _ ?_, fun rises => ?_⟩
  · rw [State.compute, if_pos falls]
    rfl
  · obtain ⟨gain, offset⟩ := corrections_nearest (d := x.range) rises
    refine ⟨(x.range.corrections mL mH).gain, (x.range.corrections mL mH).offset, gain, offset, fun out => answers _ ?_,
      fun inside => ?_⟩
    · rw [State.compute, if_neg (by omega)]
      simp only [mt inLimits_iff.1 out]
      rfl
    · have formed : calComputeRequest p () (s.newSelection p) =
          ((s.newSelection p).setCal { x with phase := .computed, computed := some (x.range.corrections mL mH) },
            some (computeReply .ok x .computed (x.range.corrections mL mH))) := by
        rw [block, State.compute, if_neg (by omega)]
        simp only [inLimits_iff.2 inside, if_true]
      obtain ⟨next, answered, same⟩ := exec_executed (i := .calCompute p f) rfl taken (by simp [payload]) decoded
        (gate_of_admits admitted _) formed (sameBut_setCal _ _) (by simp)
      refine ⟨_, next, rfl, ?_, fun e other => ?_, answered, same.weaken (by simp)⟩
      · rw [chan_complete, chan_setCal, if_pos rfl]
        rfl
      · rw [chan_complete, chan_setCal, if_neg other.symm]
        rfl

/-! ### DEFAULT, COMMIT and ABORT -/

/-- Settles O29. -/
theorem calDefaultCommitAndAbort : Obligations.CalDefaultCommitAndAbort := by
  refine ⟨?_, ?_, ?_⟩
  · intro p f s x taken payload admitted cal port epoch working
    have held : (s.newSelection p).heldContext p = some x := heldContext_of_holdsCal cal (holdsCal_of cal port epoch)
    have block : calDefaultRequest p () (s.newSelection p) =
        ((s.newSelection p).setCal { x with phase := .computed, computed := some .default },
          some (calReply .ok (some x.channel) (some .computed))) := by
      rw [calDefaultRequest, held]
      exact if_pos (working_of_ne working)
    obtain ⟨next, answered, same⟩ := exec_executed (i := .calDefault p f) rfl taken (by simp [payload])
      (show noOperands f.payload = some () by rw [payload]; rfl) (gate_of_admits admitted _) block (sameBut_setCal _ _)
      (by simp)
    refine ⟨_, next, rfl, ?_, fun e other => ?_, answered, same.weaken (by simp)⟩
    · rw [chan_complete, chan_setCal, if_pos rfl]
      rfl
    · rw [chan_complete, chan_setCal, if_neg other.symm]
      rfl
  · intro p f s x taken payload admitted cal port epoch computed
    have held : (s.newSelection p).heldContext p = some x := heldContext_of_holdsCal cal (holdsCal_of cal port epoch)
    have block : calCommitRequest p () (s.newSelection p) =
        ({ s.newSelection p with cal := some { x with phase := .committing } }, none) := by
      rw [calCommitRequest, held]
      exact if_pos computed
    have next : exec (.calCommit p f) s = .next
        (State.modPort { s.newSelection p with cal := some { x with phase := .committing } } p
          fun y => { y with transport := .executing f.seq }) := by
      show Host.Outcome.next _ = _
      rw [receive_takes taken (by simp [payload]) (show noOperands f.payload = some () by rw [payload]; rfl),
        State.execute, gate_newSelection, gate_of_admits admitted]
      simp only [block]
    refine ⟨_, next, rfl, ?_, fun q other => ?_, ?_⟩
    · rw [port_modPort, if_pos rfl]
      show { (s.newSelection p).port p with transport := .executing f.seq } = _
      rw [State.newSelection, port_modPort, if_pos rfl]
    · rw [port_modPort, if_neg other.symm]
      exact port_newSelection_of_ne s other
    · exact SameBut.trans ((sameBut_newSelection s p).weaken (by simp))
        (SameBut.trans ((sameBut_cal _).weaken (by simp)) ((sameBut_modPort _).weaken (by simp)))
  · intro p f s x taken payload admitted cal port epoch working
    have held : (s.newSelection p).heldContext p = some x := heldContext_of_holdsCal cal (holdsCal_of cal port epoch)
    have block : calAbortRequest p () (s.newSelection p) =
        ((s.newSelection p).closeCal x.channel, some (calReply .ok (some x.channel) none)) := by
      rw [calAbortRequest, held]
      exact if_pos (working_of_ne working)
    obtain ⟨next, answered, same⟩ := exec_executed (i := .calAbort p f) rfl taken (by simp [payload])
      (show noOperands f.payload = some () by rw [payload]; rfl) (gate_of_admits admitted _) block
        (sameBut_closeCal _ _)
      (by simp)
    refine ⟨_, next, rfl, ?_, fun e other => ?_, answered, same.weaken (by simp)⟩
    · rw [chan_complete, chan_closeCal, if_pos rfl]
      rfl
    · rw [chan_complete, chan_closeCal, if_neg other.symm]
      rfl

/-! ### Refusals -/

theorem oneByte_of_length {l : List Byte} (h : l.length = 1) : ∃ b, oneByte l = some b := by
  obtain ⟨b, rfl⟩ := List.length_eq_one_iff.1 h
  exact ⟨b, rfl⟩

theorem measureOperands_of_length {l : List Byte} (h : l.length = 3) : ∃ a, measureOperands l = some a := by
  obtain ⟨point, hi, lo, rfl⟩ := List.length_eq_three.1 h
  exact ⟨_, rfl⟩

theorem anyOperands_of_ne_nil {l : List Byte} (h : l ≠ []) : anyOperands l = some () := by
  cases l with
  | nil => exact absurd rfl h
  | cons b l => rfl

theorem noOperands_of_eq {l : List Byte} (h : l = []) : noOperands l = some () := by
  rw [h]
  rfl

/-- Every step but BEGIN is refused to a port that does not hold the context (R140). -/
theorem calRequest_unheld (unheld : s.heldContext p = none) :
    (∀ b, calDriveRequest p b s = (s, some (s.calRefusal p .calState))) ∧
      (∀ a, calMeasureRequest p a s = (s, some (s.calRefusal p .calState))) ∧
      calComputeRequest p () s = (s, some (s.calRefusal p .calState)) ∧
      calDefaultRequest p () s = (s, some (s.calRefusal p .calState)) ∧
      calCommitRequest p () s = (s, some (s.calRefusal p .calState)) ∧
      calAbortRequest p () s = (s, some (s.calRefusal p .calState)) := by
  simp [calDriveRequest, calMeasureRequest, calComputeRequest, calDefaultRequest, calCommitRequest, calAbortRequest,
    unheld]

/-- The phases in which the holder's steps are refused (R140). -/
theorem calRequest_untimely (held : s.heldContext p = some x) :
    (x.phase = .opened ∨ x.phase = .committing ∨ x.measuredLow = none ∨ x.measuredHigh = none →
      calComputeRequest p () s = (s, some (s.calRefusal p .calState))) ∧
      (x.phase = .committing → (∀ point : CalPoint,
        calDriveRequest p point.byte s = (s, some (s.calRefusal p .calState))) ∧
        calDefaultRequest p () s = (s, some (s.calRefusal p .calState)) ∧
        calAbortRequest p () s = (s, some (s.calRefusal p .calState))) ∧
      (x.phase ≠ .computed → calCommitRequest p () s = (s, some (s.calRefusal p .calState))) := by
  refine ⟨fun unready => ?_, fun committing => ?_, fun other => ?_⟩
  · unfold calComputeRequest
    rw [held]
    rcases unready with e | e | e | e
    · simp [e, CalPhase.measurable]
    · simp [e, CalPhase.measurable]
    · simp [e]
    · simp [e]
  · have idle : x.phase.working = false := by rw [committing]; rfl
    simp [calDriveRequest, calDefaultRequest, calAbortRequest, held, idle]
  · simp [calCommitRequest, held, other]

/-- Settles O30. -/
theorem calRefusals : Obligations.CalRefusals := by
  refine ⟨?_, ?_, ?_⟩
  · intro p f s _ taken payload short admitted
    have refused : OnlyAnswers (.calUnknownStep p f) s p kindCal f (s.calRefusal p .badArg) :=
      onlyAnswers_calRefusal (i := .calUnknownStep p f) rfl taken admitted (by simpa using short)
        (anyOperands_of_ne_nil payload) rfl
    refine ⟨fun unheld => ?_, fun x cal holds => ?_⟩
    · rwa [calRefusal_of_not unheld] at refused
    · rwa [calRefusal_of_holdsCal cal holds] at refused
  · intro p f s admitted unheld refuses
    obtain ⟨drive, measure, compute, default, commit, abort⟩ :=
      calRequest_unheld (s := s.newSelection p) (p := p) (heldContext_eq_none unheld)
    simp only [refuses, ← calRefusal_of_not unheld]
    refine ⟨fun taken length => ?_, fun taken length => ?_, fun taken empty => ?_, fun taken empty => ?_,
      fun taken empty => ?_, fun taken empty => ?_⟩
    · obtain ⟨b, decoded⟩ := oneByte_of_length length
      exact onlyAnswers_calRefusal (i := .calDrive p f) rfl taken admitted (by simp [length]) decoded (drive b)
    · obtain ⟨a, decoded⟩ := measureOperands_of_length length
      exact onlyAnswers_calRefusal (i := .calMeasure p f) rfl taken admitted (by simp [length]) decoded (measure a)
    · exact onlyAnswers_calRefusal (i := .calCompute p f) rfl taken admitted (by simp [empty]) (noOperands_of_eq empty)
        compute
    · exact onlyAnswers_calRefusal (i := .calDefault p f) rfl taken admitted (by simp [empty]) (noOperands_of_eq empty)
        default
    · exact onlyAnswers_calRefusal (i := .calCommit p f) rfl taken admitted (by simp [empty]) (noOperands_of_eq empty)
        commit
    · exact onlyAnswers_calRefusal (i := .calAbort p f) rfl taken admitted (by simp [empty]) (noOperands_of_eq empty)
        abort
  · intro p f s x admitted cal holds refuses
    obtain ⟨compute, committing, commit⟩ :=
      calRequest_untimely (s := s.newSelection p) (p := p) (heldContext_of_holdsCal cal holds)
    simp only [refuses, ← calRefusal_of_holdsCal cal holds]
    refine ⟨fun taken empty unready => ?_, fun taken point byte phase => ?_, fun taken empty phase => ?_,
      fun taken empty phase => ?_, fun taken empty phase => ?_⟩
    · exact onlyAnswers_calRefusal (i := .calCompute p f) rfl taken admitted (by simp [empty]) (noOperands_of_eq empty)
        (compute unready)
    · obtain ⟨drive, -, -⟩ := committing phase
      exact onlyAnswers_calRefusal (i := .calDrive p f) rfl taken admitted (by simp [byte])
        (show oneByte f.payload = some point.byte by rw [byte]; rfl) (drive point)
    · obtain ⟨-, default, -⟩ := committing phase
      exact onlyAnswers_calRefusal (i := .calDefault p f) rfl taken admitted (by simp [empty]) (noOperands_of_eq empty)
        default
    · exact onlyAnswers_calRefusal (i := .calCommit p f) rfl taken admitted (by simp [empty]) (noOperands_of_eq empty)
        (commit phase)
    · obtain ⟨-, -, abort⟩ := committing phase
      exact onlyAnswers_calRefusal (i := .calAbort p f) rfl taken admitted (by simp [empty]) (noOperands_of_eq empty)
        abort

end Steps

/-! ## The completion of a commit -/

section Completion

variable {s : State} {x : CalContext}

theorem cell_complete_commit (s : State) (x : CalContext) (c : Channel) (d : DriveRange) :
    (s.commitDone x).cell c d =
      if x.channel = c ∧ x.range = d then (s.cell x.channel x.range).commit x.channel x.range x.record
      else s.cell c d := by
  rw [← cell_modCell s x.channel x.range (fun k => k.commit x.channel x.range x.record) c d]
  rfl

theorem cell_commitFailed (s : State) (x : CalContext) (c : Channel) (d : DriveRange) :
    (s.commitFailed x).cell c d =
      if x.channel = c ∧ x.range = d then (s.cell x.channel x.range).write x.channel x.range x.record false
      else s.cell c d := by
  rw [← cell_modCell s x.channel x.range (fun k => k.write x.channel x.range x.record false) c d]
  unfold State.commitFailed
  dsimp only
  split
  · rfl
  · rw [cell_complete, cell_notify]
    rfl

theorem commitSeq_executing {y : PortState} {seq : Byte} (h : y.transport = .executing seq) : y.commitSeq = seq := by
  simp [PortState.commitSeq, h]

theorem nextGeneration_eq (k : Cell) :
    k.nextGeneration = match k.newer with | some i => k.slots[i].generation + 1 | none => 1 := by
  unfold Cell.nextGeneration
  cases k.newer <;> rfl

/-- The record a verified commit leaves of a channel-range (R149, R150). -/
theorem commit_eq (k : Cell) (c : Channel) (d : DriveRange) (r : Coeff) :
    k.commit c d r =
      { slots :=
          k.slots.set (if k.newer = some 0 then 1 else 0 : Fin 2)
            { channel := c, range := d, generation := k.nextGeneration, coeff := r
              check := Config.checkWord c d.place k.nextGeneration r.gain r.offset }
        newer := some (if k.newer = some 0 then 1 else 0), effect := r } := by
  have older := older_eq k
  unfold Cell.commit Cell.write
  simp only [older]
  rfl

theorem completeCommit_of_committing (flags : s.flagsDue = false) (cal : s.cal = some x) (phase : x.phase = .committing)
    (verified : Bool) :
    exec (.commitCompletion verified) s = .next (if verified then s.commitDone x else s.commitFailed x) := by
  show Host.Outcome.next _ = _
  rw [takeAllFlags_of_not_due flags, State.completeCommit, committing_eq_some cal phase]

/-- Settles O31. -/
theorem commitCompletesVerified : Obligations.CommitCompletesVerified := by
  intro s x k seq flags cal phase computed executing before older generation response
  have record : x.record = k := by simp [CalContext.record, computed]
  have port : ∀ q, (s.commitDone x).port q =
      if x.port = q then
        { s.port x.port with transport := .answered response false, saved := some ⟨seq, kindCal, response⟩ }
      else s.port q := fun q => by
    have answer :
        (⟨.ok, false, .committed x.channel x.range before.nextGeneration x.record⟩ : Reply).toResponse kindCal seq =
          response := by
      rw [record, nextGeneration_eq]
      rfl
    rw [State.commitDone]
    dsimp only
    rw [port_complete, commitSeq_executing executing, answer]
    rfl
  refine ⟨_, completeCommit_of_committing flags cal phase true, rfl, ?_, fun c d other => ?_, ?_, fun e other => ?_, ?_,
    fun q other => ?_, sameBut_commitDone s x⟩
  · have next : (s.cell x.channel x.range).nextGeneration = generation := nextGeneration_eq _
    rw [if_pos rfl, cell_complete_commit, if_pos ⟨rfl, rfl⟩, commit_eq, record, next]
  · rw [if_pos rfl, cell_complete_commit, if_neg]
    rintro ⟨rfl, rfl⟩
    exact other ⟨rfl, rfl⟩
  · rw [if_pos rfl, chan_commitDone, if_pos rfl, record]
    rfl
  · rw [if_pos rfl, chan_commitDone, if_neg other.symm]
  · rw [if_pos rfl, port, if_pos rfl]
  · rw [if_pos rfl, port, if_neg other.symm]

/-! ### A failed completion -/

theorem commitFailed_port {seq : Byte} (executing : (s.port x.port).transport = .executing seq) (q : Port) :
    let phase := if (s.chan x.channel).drive = .calibrating then some CalPhase.computed else none
    let response : Response := ⟨kindCal, seq, .storeFailed, false, .storeFailed x.channel phase x.range⟩
    (s.commitFailed x).port q =
      if x.port = q then
        { s.port x.port with transport := .answered response false, saved := some ⟨seq, kindCal, response⟩ }
      else s.port q := by
  unfold State.commitFailed
  dsimp only
  split
  · rw [port_complete, commitSeq_executing executing]
    rfl
  · rw [port_complete, commitSeq_executing executing, port_notify, port_notify]
    rfl

theorem commitFailed_calibrating (drive : (s.chan x.channel).drive = .calibrating) :
    (s.commitFailed x).cal = some { x with phase := .computed } ∧ (s.commitFailed x).chans = s.chans ∧
      (s.commitFailed x).queues = s.queues := by
  unfold State.commitFailed
  dsimp only
  rw [if_pos drive]
  exact ⟨rfl, rfl, rfl⟩

theorem commitFailed_moved (drive : (s.chan x.channel).drive ≠ .calibrating) :
    (s.commitFailed x).cal = none ∧ Handed s (s.commitFailed x) [(x.port, .calAborted x.channel)] := by
  unfold State.commitFailed
  dsimp only
  rw [if_neg drive]
  refine ⟨?_, fun q => ?_⟩
  · rw [cal_complete, cal_notify]
    rfl
  · rw [queue_complete]
    exact handed_notifyAll _ [(x.port, NoteBody.calAborted x.channel)] q

theorem slot_write_older {k : Cell} {c : Channel} {d : DriveRange} {r : Coeff} {i : Fin 2} (place : i = k.older) :
    (k.write c d r false).slots[i] = { k.writtenSlot c d r with check := (k.writtenSlot c d r).disagreeing } := by
  subst place
  simp [Cell.write]

theorem slot_write_of_ne {k : Cell} {c : Channel} {d : DriveRange} {r : Coeff} {good : Bool} {i : Fin 2}
    (other : i ≠ k.older) : (k.write c d r good).slots[i] = k.slots[i] := by
  simp [Cell.write, Fin.val_ne_of_ne other.symm]

/-- Settles O32. -/
theorem commitCompletesFailed : Obligations.CommitCompletesFailed := by
  intro s x seq flags cal phase executing before older
  have place : older = before.older := (older_eq before).symm
  have cell : (s.commitFailed x).cell x.channel x.range = before.write x.channel x.range x.record false := by
    rw [cell_commitFailed, if_pos ⟨rfl, rfl⟩]
  refine ⟨s.commitFailed x, if (s.chan x.channel).drive = .calibrating then some .computed else none,
    completeCommit_of_committing flags cal phase false, ?_, fun i other => ?_, ?_, ?_, fun c d other => ?_,
    fun drive => ?_, fun drive => ?_, ?_, fun q other => ?_, sameBut_commitFailed s x⟩
  · rw [cell, slot_write_older place]
    exact Slot.disagreeing_ne _
  · rw [cell, slot_write_of_ne (place ▸ other)]
  · rw [cell]
    rfl
  · rw [cell]
    rfl
  · rw [cell_commitFailed, if_neg]
    rintro ⟨rfl, rfl⟩
    exact other ⟨rfl, rfl⟩
  · exact ⟨if_pos drive, commitFailed_calibrating drive⟩
  · obtain ⟨closed, handed⟩ := commitFailed_moved drive
    refine ⟨if_neg drive, closed, ?_, fun e other => ?_, handed⟩
    · rw [chan_commitFailed, if_pos ⟨rfl, drive⟩]
    · rw [chan_commitFailed, if_neg fun h => other h.1.symm]
  · exact (commitFailed_port executing x.port).trans (if_pos rfl)
  · exact (commitFailed_port executing q).trans (if_neg other.symm)

end Completion

/-! ## The start-up load -/

section Load

variable {s : State}

theorem cell_loadStore (c : Channel) (d : DriveRange) : s.loadStore.cell c d = (s.cell c d).load c d := by
  simp [State.cell, State.loadStore]

theorem valid_iff {c : Channel} {d : DriveRange} {x : Slot} :
    x.valid c d ↔ x.channel = c ∧ x.range = d ∧
      x.check = Config.checkWord c d.place x.generation x.coeff.gain x.coeff.offset := by
  simp only [Slot.valid, Slot.agreeing, Bool.and_eq_true, decide_eq_true_eq]
  constructor
  · rintro ⟨⟨rfl, rfl⟩, check⟩
    exact ⟨rfl, rfl, of_decide_eq_true check⟩
  · rintro ⟨rfl, rfl, check⟩
    exact ⟨⟨rfl, rfl⟩, decide_eq_true check⟩

/-- The table of R147 on the two slots of a channel-range. -/
theorem newerSlot_table (c : Channel) (d : DriveRange) (v : Vector Slot 2) :
    (v[0].valid c d → v[1].valid c d → v[1].generation = v[0].generation + 1 → newerSlot c d v = some 1) ∧
      (v[0].valid c d → v[1].valid c d → v[1].generation ≠ v[0].generation + 1 → newerSlot c d v = some 0) ∧
      (v[0].valid c d → ¬v[1].valid c d → newerSlot c d v = some 0) ∧
      (¬v[0].valid c d → v[1].valid c d → newerSlot c d v = some 1) ∧
      (¬v[0].valid c d → ¬v[1].valid c d → newerSlot c d v = none) := by
  unfold newerSlot
  cases v[0].valid c d <;> cases v[1].valid c d <;> simp

/-- What the load makes of a channel-range (R147, R154). -/
theorem load_spec (c : Channel) (d : DriveRange) (k : Cell) :
    let good := fun i : Fin 2 =>
      k.slots[i].channel = c ∧ k.slots[i].range = d ∧
        k.slots[i].check =
          Config.checkWord c d.place k.slots[i].generation k.slots[i].coeff.gain k.slots[i].coeff.offset
    (k.load c d).slots = k.slots ∧
      (good 0 → good 1 → k.slots[1].generation = k.slots[0].generation + 1 → (k.load c d).newer = some 1) ∧
      (good 0 → good 1 → k.slots[1].generation ≠ k.slots[0].generation + 1 → (k.load c d).newer = some 0) ∧
      (good 0 → ¬good 1 → (k.load c d).newer = some 0) ∧
      (¬good 0 → good 1 → (k.load c d).newer = some 1) ∧
      (¬good 0 → ¬good 1 → (k.load c d).newer = none ∧ (k.load c d).effect = ⟨0, 0⟩) ∧
      ∀ i, (k.load c d).newer = some i → (k.load c d).effect = k.slots[i].coeff := by
  intro good
  obtain ⟨follows, precedes, first, second, neither⟩ := newerSlot_table c d k.slots
  have good_iff : ∀ i, k.slots[i].valid c d = true ↔ good i := fun i => valid_iff
  have effect : ∀ i, newerSlot c d k.slots = i →
      (k.load c d).effect = match i with | some i => k.slots[i].coeff | none => .default := by
    intro i newer
    unfold Cell.load
    cases i <;> simp only [newer]
  refine ⟨rfl, fun g₀ g₁ => follows ((good_iff 0).2 g₀) ((good_iff 1).2 g₁),
    fun g₀ g₁ => precedes ((good_iff 0).2 g₀) ((good_iff 1).2 g₁),
    fun g₀ b₁ => first ((good_iff 0).2 g₀) (mt (good_iff 1).1 b₁),
    fun b₀ g₁ => second (mt (good_iff 0).1 b₀) ((good_iff 1).2 g₁), fun b₀ b₁ => ?_, fun i newer => effect _ newer⟩
  have none := neither (mt (good_iff 0).1 b₀) (mt (good_iff 1).1 b₁)
  exact ⟨none, effect _ none⟩

theorem strapCeiling_table (b : BitVec 2) :
    (b = 0b00 → strapCeiling b = 1) ∧ (b = 0b01 → strapCeiling b = 3) ∧ (b = 0b10 → strapCeiling b = 5) ∧
      (b = 0b11 → strapCeiling b = 7) := by
  revert b
  decide

/-- Settles O4. -/
theorem startUpFollowsReset : Obligations.StartUpFollowsReset := by
  constructor
  · intro straps mhold s asserted
    refine ⟨s.endReset straps mhold, if_pos asserted, fun p => ?_, rfl, rfl, rfl, ?_⟩
    · have ceiling : (s.endReset straps mhold).ceiling p = strapCeiling straps[p] := by
        simp [State.ceiling, State.endReset]
      rw [ceiling]
      exact strapCeiling_table _
    · intro y hy
      cases y <;> simp [Part.Same, State.endReset] at hy ⊢
  · intro s flags starting ended
    have next : exec .startUpLoadCompletion s = .next s.loadStore := by
      show (if s.starting && !s.resetAsserted then _ else _) = _
      rw [if_pos (by simp [starting, ended]), takeAllFlags_of_not_due flags]
    refine ⟨s.loadStore, next, rfl, ?_, fun c d => ?_⟩
    · intro y hy
      cases y <;> simp [Part.Same, State.loadStore] at hy ⊢
    · rw [cell_loadStore]
      exact load_spec c d (s.cell c d)

end Load

end Sys2Proof.Machine

/-! # Ports: what every request row answers before it is executed (chapter 10) -/

namespace Sys2Proof.Machine

/-! ## Layouts (R174) -/

section Layouts

variable {l : List Byte}

theorem noOperands_isSome : (noOperands l).isSome ↔ l.length = 0 := by
  cases l <;> simp [noOperands]

theorem oneByte_isSome : (oneByte l).isSome ↔ l.length = 1 := by
  rw [List.length_eq_one_iff]
  unfold oneByte
  split <;> simp_all

theorem openOperands_isSome : (openOperands l).isSome ↔ l.length = 2 := by
  rw [List.length_eq_two]
  unfold openOperands
  split <;> simp_all

theorem timebaseOperands_isSome : (timebaseOperands l).isSome ↔ l.length = 2 := by
  rw [List.length_eq_two]
  unfold timebaseOperands
  split <;> simp_all

theorem releaseOperands_isSome : (releaseOperands l).isSome ↔ l.length = 2 := by
  rw [List.length_eq_two]
  unfold releaseOperands
  split <;> simp_all

theorem measureOperands_isSome : (measureOperands l).isSome ↔ l.length = 3 := by
  rw [List.length_eq_three]
  unfold measureOperands
  split <;> simp_all

theorem anyOperands_isSome : (anyOperands l).isSome ↔ l.length ≠ 0 := by
  cases l <;> simp [anyOperands]

theorem claimOperands_isSome : (claimOperands l).isSome ↔ l.length = 5 := by
  constructor
  · intro h
    unfold claimOperands at h
    split at h
    · rfl
    · cases h
  · intro h
    match l, h with
    | [_, _, _, _, _], _ => rfl

theorem configureOperands_isSome : (configureOperands l).isSome ↔ l.length = 18 := by
  constructor
  · intro h
    obtain ⟨a, some⟩ := Option.isSome_iff_exists.1 h
    exact length_of_configureOperands some
  · intro h
    match l, h with
    | [_, _, _, _, _, _, _, _, _, _, _, _, _, _, _, _, _, _], _ => rfl

theorem readOperands_isSome : (readOperands l).isSome ↔ l.length ≠ 0 ∧ l.length = 1 + (l.headD 0).toNat := by
  cases l with
  | nil => simp [readOperands]
  | cons n rest =>
    simp [readOperands]
    omega

/-- Bytes in threes are the entries of a WRITE. -/
theorem writeEntries_isSome : ∀ {n : Nat} {l : List Byte}, l.length = 3 * n → (writeEntries l).isSome
  | 0, [], _ => rfl
  | n + 1, c :: hi :: lo :: rest, h => by
    have := writeEntries_isSome (n := n) (l := rest) (by simp at h; omega)
    simpa [writeEntries] using this
  | n + 1, [], h | n + 1, [_], h | n + 1, [_, _], h => by simp at h <;> omega

theorem writeOperands_isSome : (writeOperands l).isSome ↔ l.length ≠ 0 ∧ l.length = 1 + 3 * (l.headD 0).toNat := by
  cases l with
  | nil => simp [writeOperands]
  | cons n rest =>
    unfold writeOperands
    by_cases h : rest.length = 3 * n.toNat
    · simp [h, writeEntries_isSome h]
      omega
    · simp [h]
      omega

/-! The length that the layout of each kind requires. -/

theorem layoutFits_open : layoutFits kindOpen l = (decide (l.length ≤ 40) && l.length == 2) := rfl

theorem layoutFits_close : layoutFits kindClose l = (decide (l.length ≤ 40) && l.length == 0) := rfl

theorem layoutFits_refresh : layoutFits kindRefresh l = (decide (l.length ≤ 40) && l.length == 0) := rfl

theorem layoutFits_mode : layoutFits kindMode l = (decide (l.length ≤ 40) && l.length == 1) := rfl

theorem layoutFits_claim : layoutFits kindClaim l = (decide (l.length ≤ 40) && l.length == 5) := rfl

theorem layoutFits_cancel : layoutFits kindCancel l = (decide (l.length ≤ 40) && l.length == 1) := rfl

theorem layoutFits_release : layoutFits kindRelease l = (decide (l.length ≤ 40) && l.length == 2) := rfl

theorem layoutFits_write :
    layoutFits kindWrite l =
      (decide (l.length ≤ 40) && (l.length != 0 && l.length == 1 + 3 * (l.headD 0).toNat)) := rfl

theorem layoutFits_configure : layoutFits kindConfigure l = (decide (l.length ≤ 40) && l.length == 18) := rfl

theorem layoutFits_read :
    layoutFits kindRead l = (decide (l.length ≤ 40) && (l.length != 0 && l.length == 1 + (l.headD 0).toNat)) := rfl

theorem layoutFits_notes : layoutFits kindNotes l = (decide (l.length ≤ 40) && l.length == 1) := rfl

theorem layoutFits_status : layoutFits kindStatus l = (decide (l.length ≤ 40) && l.length == 0) := rfl

theorem layoutFits_cal :
    layoutFits kindCal l =
      (decide (l.length ≤ 40) && (l.length != 0 &&
        (if (l.headD 0).toNat ∈ [1, 2] then l.length == 2
        else if (l.headD 0).toNat = 3 then l.length == 4
        else if (l.headD 0).toNat ∈ [4, 5, 6, 7] then l.length == 1
        else true))) := rfl

theorem layoutFits_timebase :
    layoutFits kindTimebase l =
      (decide (l.length ≤ 40) && (l.length != 0 &&
        (if (l.headD 0).toNat = 0 then l.length == 1 else if
          (l.headD 0).toNat = 1 then l.length == 3 else true))) := rfl

theorem layoutFits_unknown {kind : Byte} (unknown : kind ∉ namedKinds) : layoutFits kind l = false := by
  simp only [namedKinds, List.mem_cons, List.not_mem_nil, or_false, not_or] at unknown
  obtain ⟨opens, close, refresh, mode, claim, cancel, release, write, configure, read, notes, cal, timebase, status⟩ :=
    unknown
  simp [layoutFits, opens, close, refresh, mode, claim, cancel, release, write, configure, read, notes, cal, timebase,
    status]

/-- A CAL payload whose first byte names none of the seven steps. -/
theorem layoutFits_calUnknown {f : Frame} (unknown : f.headNotIn calSteps) :
    layoutFits kindCal f.payload ↔ f.payload.length ≤ 40 ∧ f.payload.length ≠ 0 := by
  rw [layoutFits_cal]
  cases payload : f.payload with
  | nil => simp
  | cons b rest =>
    simp only [Frame.headNotIn, payload, calSteps, stepBegin, stepDrive, stepMeasure, stepCompute,
      stepDefault, stepCommit,
      stepAbort, List.contains_cons, List.contains_nil, Bool.or_false, Bool.not_eq_true', Bool.or_eq_false_iff,
      beq_eq_false_iff_ne] at unknown
    have numbers : b.toNat ∉ [1, 2] ∧ b.toNat ≠ 3 ∧ b.toNat ∉ [4, 5, 6, 7] := by
      simp only [List.mem_cons, List.not_mem_nil, or_false]
      refine ⟨?_, ?_, ?_⟩ <;> bv_omega
    obtain ⟨two, four, one⟩ := numbers
    rw [List.headD_cons, if_neg two, if_neg four, if_neg one]
    simp

/-- A TIMEBASE payload whose first byte is neither READ nor WRITE. -/
theorem layoutFits_timebaseUnknown {f : Frame} (unknown : f.headNotIn timebaseVariants) :
    layoutFits kindTimebase f.payload ↔ f.payload.length ≤ 40 ∧ f.payload.length ≠ 0 := by
  rw [layoutFits_timebase]
  cases payload : f.payload with
  | nil => simp
  | cons b rest =>
    simp only [Frame.headNotIn, payload, timebaseVariants, variantRead, variantWrite, List.contains_cons,
      List.contains_nil, Bool.or_false, Bool.not_eq_true', Bool.or_eq_false_iff, beq_eq_false_iff_ne] at unknown
    have numbers : b.toNat ≠ 0 ∧ b.toNat ≠ 1 := by refine ⟨?_, ?_⟩ <;> bv_omega
    obtain ⟨read, write⟩ := numbers
    rw [List.headD_cons, if_neg read, if_neg write]
    simp

end Layouts

/-! ## Every request row -/

/-- The payload of a gate refusal of a kind (R36, R140, R175). -/
def Request.refusal (r : Request) : Payload :=
  if r.kind = kindClaim then .claim (r.payload.headD 0) 0 0
  else if r.kind = kindCal then .cal none none
  else .empty

/-- A request row goes through `receive`, which reads its operands exactly when the layout of its kind fits (R165 to
R169, R174). -/
theorem exec_request_row {i : Instr} {r : Request} (request : requestOf i = some r) (formed : i.wellFormed) :
    ∃ (α : Type) (operands : List Byte → Option α) (run : α → State → State × Option Reply),
      (∀ s, exec i s = .next (s.receive r.port r.kind r.lead r.frame r.gate r.refusal operands run)) ∧
        (layoutFits r.kind r.payload ↔
          r.lead.length + r.frame.payload.length ≤ 40 ∧ (operands r.frame.payload).isSome) := by
  cases i with
  | openSession p f =>
    obtain rfl : _ = r := Option.some.inj request
    exact ⟨_, _, _, fun s => rfl, by simp [Request.payload, layoutFits_open, openOperands_isSome]⟩
  | closeSession p f =>
    obtain rfl : _ = r := Option.some.inj request
    exact ⟨_, _, _, fun s => rfl, by simp [Request.payload, layoutFits_close, noOperands_isSome]⟩
  | refresh p f =>
    obtain rfl : _ = r := Option.some.inj request
    exact ⟨_, _, _, fun s => rfl, by simp [Request.payload, layoutFits_refresh, noOperands_isSome]⟩
  | mode p f =>
    obtain rfl : _ = r := Option.some.inj request
    exact ⟨_, _, _, fun s => rfl, by simp [Request.payload, layoutFits_mode, oneByte_isSome]⟩
  | claim p f =>
    obtain rfl : _ = r := Option.some.inj request
    exact ⟨_, _, _, fun s => rfl, by simp [Request.payload, layoutFits_claim, claimOperands_isSome]⟩
  | cancel p f =>
    obtain rfl : _ = r := Option.some.inj request
    exact ⟨_, _, _, fun s => rfl, by simp [Request.payload, layoutFits_cancel, oneByte_isSome]⟩
  | release p f =>
    obtain rfl : _ = r := Option.some.inj request
    exact ⟨_, _, _, fun s => rfl, by simp [Request.payload, layoutFits_release, releaseOperands_isSome]⟩
  | write p f =>
    obtain rfl : _ = r := Option.some.inj request
    exact ⟨_, _, _, fun s => rfl, by simp [Request.payload, layoutFits_write, writeOperands_isSome]⟩
  | configure p f =>
    obtain rfl : _ = r := Option.some.inj request
    exact ⟨_, _, _, fun s => rfl, by simp [Request.payload, layoutFits_configure, configureOperands_isSome]⟩
  | read p f =>
    obtain rfl : _ = r := Option.some.inj request
    exact ⟨_, _, _, fun s => rfl, by simp [Request.payload, layoutFits_read, readOperands_isSome]⟩
  | notes p f =>
    obtain rfl : _ = r := Option.some.inj request
    exact ⟨_, _, _, fun s => rfl, by simp [Request.payload, layoutFits_notes, oneByte_isSome]⟩
  | calBegin p f =>
    obtain rfl : _ = r := Option.some.inj request
    exact ⟨_, _, _, fun s => rfl, by
      simp [Request.payload, layoutFits_cal, stepBegin, oneByte_isSome]
      omega⟩
  | calDrive p f =>
    obtain rfl : _ = r := Option.some.inj request
    exact ⟨_, _, _, fun s => rfl, by
      simp [Request.payload, layoutFits_cal, stepDrive, oneByte_isSome]
      omega⟩
  | calMeasure p f =>
    obtain rfl : _ = r := Option.some.inj request
    exact ⟨_, _, _, fun s => rfl, by
      simp [Request.payload, layoutFits_cal, stepMeasure, measureOperands_isSome]
      omega⟩
  | calCompute p f =>
    obtain rfl : _ = r := Option.some.inj request
    exact ⟨_, _, _, fun s => rfl, by simp [Request.payload, layoutFits_cal, stepCompute, noOperands_isSome, add_comm]⟩
  | calDefault p f =>
    obtain rfl : _ = r := Option.some.inj request
    exact ⟨_, _, _, fun s => rfl, by simp [Request.payload, layoutFits_cal, stepDefault, noOperands_isSome, add_comm]⟩
  | calCommit p f =>
    obtain rfl : _ = r := Option.some.inj request
    exact ⟨_, _, _, fun s => rfl, by simp [Request.payload, layoutFits_cal, stepCommit, noOperands_isSome, add_comm]⟩
  | calAbort p f =>
    obtain rfl : _ = r := Option.some.inj request
    exact ⟨_, _, _, fun s => rfl, by simp [Request.payload, layoutFits_cal, stepAbort, noOperands_isSome, add_comm]⟩
  | calUnknownStep p f =>
    obtain rfl : _ = r := Option.some.inj request
    obtain ⟨-, unknown⟩ := Bool.and_eq_true_iff.1 formed
    exact ⟨_, _, _, fun s => rfl, by simp [Request.payload, layoutFits_calUnknown unknown, anyOperands_isSome]⟩
  | timebaseRead p f =>
    obtain rfl : _ = r := Option.some.inj request
    exact ⟨_, _, _, fun s => rfl, by
      simp [Request.payload, layoutFits_timebase, variantRead, noOperands_isSome, add_comm]⟩
  | timebaseWrite p f =>
    obtain rfl : _ = r := Option.some.inj request
    exact ⟨_, _, _, fun s => rfl, by
      simp [Request.payload, layoutFits_timebase, variantWrite, timebaseOperands_isSome]
      omega⟩
  | timebaseUnknownVariant p f =>
    obtain rfl : _ = r := Option.some.inj request
    obtain ⟨-, unknown⟩ := Bool.and_eq_true_iff.1 formed
    exact ⟨_, _, _, fun s => rfl, by simp [Request.payload, layoutFits_timebaseUnknown unknown, anyOperands_isSome]⟩
  | status p f =>
    obtain rfl : _ = r := Option.some.inj request
    exact ⟨_, _, _, fun s => rfl, by simp [Request.payload, layoutFits_status, noOperands_isSome]⟩
  | unknownKindFrame p kind f =>
    obtain rfl : _ = r := Option.some.inj request
    have unknown : kind ∉ namedKinds := by
      simp only [Instr.wellFormed, Bool.and_eq_true, Bool.not_eq_true'] at formed
      simpa using formed.2
    have refusal : Request.refusal ⟨p, kind, [], f, .exempt⟩ = .empty := by
      have claim : kind ≠ kindClaim := fun e => unknown (e ▸ by decide)
      have cal : kind ≠ kindCal := fun e => unknown (e ▸ by decide)
      simp [Request.refusal, claim, cal]
    refine ⟨Unit, fun _ => none, fun _ t => (t, none), fun s => ?_, ?_⟩
    · rw [refusal]
      rfl
    · simp [layoutFits_unknown unknown]
  | _ => cases request

/-! ## STARTING, FORMAT, repetitions and the gate -/

section Answers

variable {i : Instr} {r : Request} {s : State}

/-- A payload whose length does not fit is over 40 bytes or gives no operands (R167). -/
theorem format_of_misfit {α : Type} {operands : List Byte → Option α} {n : Nat} {l : List Byte} {fits : Bool}
    (row : fits ↔ n ≤ 40 ∧ (operands l).isSome) (misfit : fits = false) : 40 < n ∨ operands l = none := by
  by_contra h
  push Not at h
  obtain ⟨short, reads⟩ := h
  rw [row.2 ⟨short, Option.isSome_iff_ne_none.2 reads⟩] at misfit
  cases misfit

/-- Settles O38. -/
theorem startingAndFormatAnswered : Obligations.StartingAndFormatAnswered := by
  intro i r s request formed ready
  obtain ⟨α, operands, run, next, row⟩ := exec_request_row request formed
  refine ⟨fun starting => ⟨_, by rw [next, receive_starting ready starting], placed_modPort _ _, sameBut_modPort _⟩,
    fun started misfit => ⟨_, by rw [next, receive_format ready started (format_of_misfit row misfit)],
      placed_modPort _ _, sameBut_modPort _⟩, layoutFits_unknown⟩

/-- Settles O40. -/
theorem replaysAnswered : Obligations.ReplaysAnswered := by
  intro i r s copy request formed ready started fits saved seq kind
  obtain ⟨α, operands, run, next, row⟩ := exec_request_row request formed
  obtain ⟨short, reads⟩ := row.1 fits
  obtain ⟨a, decoded⟩ := Option.isSome_iff_exists.1 reads
  have repeats : (s.port r.port).replayOf r.kind r.frame.seq = some copy.response := by
    simp [PortState.replayOf, saved, seq, kind]
  exact ⟨_, by rw [next, receive_replay ready started short decoded repeats], placed_modPort _ _, sameBut_modPort _⟩

/-- The refusal of the gate is saved like any response (R56, R169). -/
theorem onlyAnswers_refused {e : Result} (request : requestOf i = some r) (formed : i.wellFormed)
    (taken : s.takes r.port r.kind r.lead r.frame) (fits : layoutFits r.kind r.payload)
    (gate : s.gate r.gate r.port r.frame.epoch = some e) :
    OnlyAnswers i s r.port r.kind r.frame ⟨e, false, r.refusal⟩ := by
  obtain ⟨α, operands, run, next, row⟩ := exec_request_row request formed
  obtain ⟨short, reads⟩ := row.1 fits
  obtain ⟨a, decoded⟩ := Option.isSome_iff_exists.1 reads
  refine ⟨_, by rw [next, receive_refused taken short decoded gate], ⟨?_, fun q other => port_modPort_of_ne other⟩,
    sameBut_modPort _⟩
  rw [port_modPort, if_pos rfl]
  rfl

theorem gate_closed {g : GateClass} {p : Port} {e : Half} (guarded : g ≠ .exempt)
    (state : (s.session p).state = .closed) :
    s.gate g p e = some .notOpen := by
  cases g with
  | exempt => exact absurd rfl guarded
  | keeping | gated => simp [State.gate, state]

theorem gate_stale_gated {p : Port} {e : Half} (opened : s.sessionOpen p) (stale : e ≠ (s.session p).epoch) :
    s.gate .gated p e = some .stale := by
  rcases sessionOpen_iff.1 opened with state | state <;> simp [State.gate, state, stale]

theorem gate_stale_keeping {p : Port} {e : Half} (state : (s.session p).state ≠ .closed)
    (stale : e ≠ (s.session p).epoch) : s.gate .keeping p e = some .stale := by
  cases h : (s.session p).state with
  | closed => exact absurd h state
  | idle | run | lapsed => simp [State.gate, h, stale]

/-- Settles O41. -/
theorem gateRefusesRequests : Obligations.GateRefusesRequests := by
  intro i r s request formed taken fits x payload refuses
  have refuse : ∀ e, s.gate r.gate r.port r.frame.epoch = some e → refuses e := fun e =>
    onlyAnswers_refused request formed taken fits
  refine ⟨fun guarded closed => refuse _ ?_, fun gated lapsed => refuse _ ?_, fun gated opened stale => refuse _ ?_,
    fun keeping state stale => refuse _ ?_⟩
  · exact gate_closed guarded closed
  · have state : (s.session r.port).state = .lapsed := lapsed
    simp [State.gate, gated, state]
  · rw [gated]
    exact gate_stale_gated (sessionOpen_iff.2 opened) stale
  · rw [keeping]
    exact gate_stale_keeping state stale

end Answers

/-! ## Discarded frames -/

section Discarded

variable {s : State} {p : Port}

theorem discarded_eq (f : PortState → PortState) (flags : s.flagsDue = false) :
    (s.takeAllFlags.newSelection p).modPort p f = s.modPort p fun x => f { x with sending := none } := by
  rw [takeAllFlags_of_not_due flags, State.newSelection, modPort_modPort]
  rfl

/-- Settles O42. -/
theorem discardedFramesCounted : Obligations.DiscardedFramesCounted := by
  refine ⟨fun p received s short flags => ?_, fun p kind f s formed flags => ?_⟩
  · have next : exec (.frameError p received) s = .next ((s.takeAllFlags.newSelection p).countFrameError p) :=
      if_pos short
    rw [State.countFrameError, discarded_eq _ flags] at next
    refine ⟨_, next, ?_, fun q other => port_modPort_of_ne other, sameBut_modPort _⟩
    rw [port_modPort, if_pos rfl, bumpCount_eq_ite]
  · have bad : ¬crcGood kind f = true := by
      simp only [Instr.wellFormed, Bool.and_eq_true, Bool.not_eq_true'] at formed
      simp [formed.2]
    have next : exec (.crcErrorFrame p kind f) s = .next ((s.takeAllFlags.newSelection p).countCrcError p) := if_neg bad
    rw [State.countCrcError, discarded_eq _ flags] at next
    refine ⟨_, next, ?_, fun q other => port_modPort_of_ne other, sameBut_modPort _⟩
    rw [port_modPort, if_pos rfl, bumpCount_eq_ite]

end Discarded

end Sys2Proof.Machine

/-! # MHOLD, STATUS, the bytes of a selection, TIMEBASE WRITE (chapters 9, 10) -/

namespace Sys2Proof.Machine

/-! ## The edges of MHOLD (R161) -/

section Hold

variable {s : State} {h : HoldState} {b : NoteBody}

theorem queue_setHold (p : Port) :
    (s.setHold h b).queue p =
      if s.sessionOpen p then appendNote ⟨b, s.timebase.unitCounter⟩ (s.queue p) else s.queue p := by
  rw [State.setHold, State.notifyOpen, queue_notifyAll, notesFor_each _ (by decide), if_pos (mem_allPorts p)]
  rfl

theorem timebase_setHold : (s.setHold h b).timebase = { s.timebase with hold := h } := by
  rw [State.setHold, State.notifyOpen, timebase_notifyAll]

theorem sameBut_setHold : SameBut [.timebase, .queues] s (s.setHold h b) := by
  intro y hy
  cases y <;> simp [Part.Same, State.setHold, State.notifyOpen] at hy ⊢

/-- Settles O37. -/
theorem holdEdgesReported : Obligations.HoldEdgesReported := by
  refine ⟨fun s quiet ended released => ?_, fun s quiet ended asserted => ?_,
    fun s => ⟨fun still => ?_, fun still => ?_⟩⟩
  · have next : exec .holdAssertion s = .next (s.setHold .asserted .holdOn) := by
      refine (if_pos ⟨by simp [ended], released⟩).trans ?_
      rw [settled_of_quiet quiet]
    exact ⟨_, next, timebase_setHold, queue_setHold, sameBut_setHold⟩
  · have next : exec .holdRelease s = .next (s.setHold .released .holdOff) := by
      refine (if_pos ⟨by simp [ended], asserted⟩).trans ?_
      rw [settled_of_quiet quiet]
    exact ⟨_, next, timebase_setHold, queue_setHold, sameBut_setHold⟩
  · refine if_neg ?_
    rintro ⟨ended, released⟩
    rcases still with asserted | asserted
    · simp [asserted] at ended
    · simp [asserted] at released
  · refine if_neg ?_
    rintro ⟨ended, asserted⟩
    rcases still with running | released
    · simp [running] at ended
    · simp [released] at asserted

end Hold

/-! ## STATUS (R172) -/

/-- Settles O35. -/
theorem statusReportsFields : Obligations.StatusReportsFields := by
  intro p f s taken payload
  obtain ⟨t, next, answered, same⟩ := onlyAnswers_of_receive (i := .status p f) (r := ⟨.ok, false, .status _⟩) rfl taken
    (by simp [payload]) (noOperands_of_eq payload) rfl rfl
  have port : (s.newSelection p).port p = { s.port p with sending := none } := by
    rw [State.newSelection, port_modPort, if_pos rfl]
  refine ⟨t, (s.newSelection p).statusFields p, next, answered, same,
    repetitionsReplayed (fun e u => rfl) (fun l fits => ?_) answered, rfl, ?_, rfl, ?_, ?_, ?_, rfl,
      fun b => ?_, rfl, ?_⟩
  · rw [List.nil_append, layoutFits_status] at fits
    exact noOperands_isSome.2 (by simpa using (Bool.and_eq_true_iff.1 fits).2)
  · simp only [Bool.decide_and]
    rfl
  · simp only [State.statusFields, port]
  · simp only [State.statusFields, port]
  · simp only [State.statusFields, port]
  · simp [State.statusFields, State.bank]
  · show s.cal.isSome = _
    cases s.cal <;> rfl

/-! ## The bytes of a selection (R165, R170, R174) -/

section Selections

variable {p : Port} {kind : Byte} {f : Frame} {lead : List Byte}

theorem length_of_fits (fits : f.fits lead.length) : (withLead lead f).payload.length ≤ 255 := by
  simpa [Frame.fits, withLead] using fits

/-- A complete frame with a good CRC is the command of its kind. -/
theorem commandOfSelection_good (selects : kind ≠ fetchCode) (fits : f.fits lead.length)
    (good : crcGood kind (withLead lead f)) :
    commandOfSelection p (lineBytes kind (withLead lead f)) = some (kindCommand p kind (withLead lead f)) := by
  rw [commandOfSelection_lineBytes p selects (length_of_fits fits), if_pos good]

theorem calCommand_unknown (unknown : f.headNotIn calSteps) : calCommand p f = .calUnknownStep p f := by
  unfold calCommand
  cases payload : f.payload with
  | nil => rfl
  | cons b rest =>
    simp only [Frame.headNotIn, payload, calSteps, List.contains_cons, List.contains_nil, Bool.or_false,
      Bool.not_eq_true',
      Bool.or_eq_false_iff, beq_eq_false_iff_ne] at unknown
    simp [unknown]

theorem timebaseCommand_unknown (unknown : f.headNotIn timebaseVariants) :
    timebaseCommand p f = .timebaseUnknownVariant p f := by
  unfold timebaseCommand
  cases payload : f.payload with
  | nil => rfl
  | cons b rest =>
    simp only [Frame.headNotIn, payload, timebaseVariants, List.contains_cons, List.contains_nil, Bool.or_false,
      Bool.not_eq_true', Bool.or_eq_false_iff, beq_eq_false_iff_ne] at unknown
    simp [unknown]

theorem kindCommand_unknown (unknown : kind ∉ namedKinds) : kindCommand p kind f = .unknownKindFrame p kind f := by
  simp only [namedKinds, List.mem_cons, List.not_mem_nil, or_false, not_or] at unknown
  simp [kindCommand, unknown]

theorem commandOfSelection_cutShort {received : List Byte} (short : frameCutShort received) :
    commandOfSelection p received = some (.frameError p received) := by
  unfold commandOfSelection
  cases received with
  | nil => cases short
  | cons b rest =>
    simp only [frameCutShort, Bool.and_eq_true, decide_eq_true_eq, Bool.not_eq_true'] at short
    obtain ⟨selects, incomplete⟩ := short
    simp only [if_neg selects]
    split
    · rw [if_neg (by simp [incomplete])]
    · rfl

/-- Settles O44. -/
theorem selectionsSpellCommands : Obligations.SelectionsSpellCommands := by
  intro i p l formed intact selection
  cases i with
  | openSession q f | closeSession q f | refresh q f | mode q f | claim q f | cancel q f | release q f | write q f
  | configure q f | read q f | notes q f | status q f =>
    cases selection
    exact commandOfSelection_good (lead := []) (by decide) formed intact
  | calBegin q f | calDrive q f | calMeasure q f | calCompute q f | calDefault q f | calCommit q f | calAbort q f
  | timebaseRead q f | timebaseWrite q f =>
    cases selection
    exact commandOfSelection_good (by decide) formed intact
  | calUnknownStep q f =>
    cases selection
    obtain ⟨fits, unknown⟩ := Bool.and_eq_true_iff.1 formed
    exact (commandOfSelection_good (lead := []) (by decide) fits intact).trans
      (congrArg some (calCommand_unknown unknown))
  | timebaseUnknownVariant q f =>
    cases selection
    obtain ⟨fits, unknown⟩ := Bool.and_eq_true_iff.1 formed
    exact (commandOfSelection_good (lead := []) (by decide) fits intact).trans
      (congrArg some (timebaseCommand_unknown unknown))
  | unknownKindFrame q kind f =>
    cases selection
    simp only [Instr.wellFormed, Bool.and_eq_true, decide_eq_true_eq, Bool.not_eq_true', List.contains_eq_mem,
      decide_eq_false_iff_not] at formed
    obtain ⟨⟨fits, selects⟩, unknown⟩ := formed
    exact (commandOfSelection_good (lead := []) selects fits intact).trans
      (congrArg some (kindCommand_unknown unknown))
  | crcErrorFrame q kind f =>
    cases selection
    simp only [Instr.wellFormed, Bool.and_eq_true, decide_eq_true_eq, Bool.not_eq_true'] at formed
    obtain ⟨⟨fits, selects⟩, bad⟩ := formed
    rw [commandOfSelection_lineBytes p selects (by simpa [Frame.fits] using fits), if_neg (by simp [bad])]
  | frameError q received =>
    cases selection
    exact commandOfSelection_cutShort formed
  | fetch q =>
    cases selection
    rfl
  | _ => cases selection

end Selections

/-! ## TIMEBASE WRITE (R159, R160) -/

/-! ### The part without a session: nothing is owned, nothing waits, every channel is OFF or FORCED -/

section Vacant

/-- The part while every session is CLOSED or LAPSED (R7, R22, R139), the flag changes of its tick taken. -/
structure State.Vacant (s : State) : Prop where
  shut : ∀ p, s.sessionOpen p = false
  unowned : ∀ c, (s.chan c).owner = none
  still : ∀ c, (s.chan c).drive = .off ∨ (s.chan c).drive = .forced
  counts : ∀ c, (s.chan c).openLoadCount < 4 ∧ (s.chan c).deviationCount < 3
  claims : s.claims = []
  cal : s.cal = none

variable {s t : State}

theorem vacant_of_sound (sound : s.Sound) (shut : ∀ p, s.sessionOpen p = false) (flags : s.flagsDue = false) :
    s.Vacant := by
  have unowned : ∀ c, (s.chan c).owner = none := fun c => by
    cases owner : (s.chan c).owner with
    | none => rfl
    | some p =>
      have opened := sound.owners.1 c p (owner_eq_some.1 owner)
      rw [shut] at opened
      cases opened
  refine ⟨shut, unowned, fun c => ?_, (flagsDue_eq_false s).1 flags, ?_, ?_⟩
  · have drive := sound.drive c
    rw [unowned c] at drive
    simpa using drive
  · refine List.eq_nil_iff_forall_not_mem.2 fun k there => ?_
    have opened := (sound.owners.2 k there).1
    rw [shut] at opened
    cases opened
  · cases cal : s.cal with
    | none => rfl
    | some x =>
      obtain ⟨own, -⟩ := sound.context x cal
      have owner := unowned x.channel
      rw [owner_eq_some.2 own] at owner
      cases owner

/-- What no reading of `Vacant` touches may change. -/
theorem State.Vacant.sameBut {l : List Part} (h : s.Vacant) (same : SameBut l s t)
    (n : Part.sessions ∉ l ∧ Part.chans ∉ l ∧ Part.claims ∉ l ∧ Part.cal ∉ l) : t.Vacant := by
  obtain ⟨sessions, chans, claims, cal⟩ := n
  refine ⟨fun p => ?_, fun c => ?_, fun c => ?_, fun c => ?_, ?_, ?_⟩
  · rw [same.sessionOpen sessions]
    exact h.shut p
  · rw [same.chan chans]
    exact h.unowned c
  · rw [same.chan chans]
    exact h.still c
  · rw [same.chan chans]
    exact h.counts c
  · exact (same .claims claims).trans h.claims
  · exact (same .cal cal).trans h.cal

theorem takeAllFlags_of_vacant (h : s.Vacant) : s.takeAllFlags = s :=
  takeAllFlags_of_not_due ((flagsDue_eq_false s).2 h.counts)

/-- The engine steps no OFF and no FORCED channel (R75, R76). -/
theorem takeStep_of_vacant (h : s.Vacant) : SameBut [.stepDue] s s.takeStep := by
  have tick : ∀ c, (s.chan c).tick (s.calValue c) = s.chan c := fun c => by
    rcases h.still c with drive | drive <;> simp [Chan.tick, drive]
  have silent : (allChannels.flatMap fun c => (s.chan c).doneNotes c ((s.chan c).tick (s.calValue c))) = [] := by
    rw [List.flatMap_eq_nil_iff]
    intro c _
    rcases h.still c with drive | drive <;> simp [Chan.doneNotes, Chan.completes, drive]
  cases due : s.stepDue with
  | false =>
    rw [takeStep_of_not_due due]
    exact .refl _ s
  | true =>
    rw [takeStep_of_due due, takeAllFlags_of_vacant h, State.stepChannels, silent, mapChans_id s tick]
    intro y hy
    cases y <;> simp [Part.Same, notifyAll_nil] at hy ⊢

/-! ### The field events of one bank, and of all -/

/-- The bank after the field event due on it (R115, R118). -/
def BankState.afterEvents (x : BankState) : BankState :=
  if x.lossDue then ⟨.lost, 0⟩ else if x.restoreDue then ⟨.ok, 0⟩ else x

/-- A channel without an owner after the field event due on its bank (R106, R115). -/
def Chan.afterEvents (x : BankState) (r : Chan) : Chan :=
  if x.lossDue then r.fieldLoss else if x.restoreDue then r.restore false else r

theorem restore_of_unowned {r : Chan} (unowned : r.owner = none) :
    r.restore false = r.force true (match r.forced with | some x => x.action | none => .hold) := by
  unfold Chan.restore
  rw [unowned]
  cases r.forced <;> rfl

theorem vacant_of_events (h : s.Vacant) {b : Bank} (same : SameBut [.chans, .banks] s t)
    (chan : ∀ c, t.chan c = if bankOf c = b then (s.chan c).afterEvents (s.bank b) else s.chan c) : t.Vacant := by
  have each : ∀ c, (t.chan c).owner = none ∧ ((t.chan c).drive = .off ∨ (t.chan c).drive = .forced) ∧
      (t.chan c).openLoadCount < 4 ∧ (t.chan c).deviationCount < 3 := fun c => by
    have unowned := h.unowned c
    have still := h.still c
    have counts := h.counts c
    rw [chan]
    generalize s.chan c = r at unowned still counts ⊢
    unfold Chan.afterEvents
    split
    · split
      · exact ⟨unowned, .inl rfl, show 0 < 4 by decide, show 0 < 3 by decide⟩
      · split
        · rw [restore_of_unowned unowned]
          refine ⟨(owner_congr (own_force _ _ _)).trans unowned, ?_, by rw [openLoadCount_force]; exact counts.1,
            by rw [deviationCount_force]; exact counts.2⟩
          rw [drive_force]
          split
          · exact still
          · exact .inr rfl
        · exact ⟨unowned, still, counts⟩
    · exact ⟨unowned, still, counts⟩
  refine ⟨fun p => ?_, fun c => ?_, fun c => ?_, fun c => ?_, (same .claims (by simp)).trans h.claims,
    (same .cal (by simp)).trans h.cal⟩
  · rw [same.sessionOpen (by simp)]
    exact h.shut p
  · obtain ⟨unowned, -⟩ := each c
    exact unowned
  · obtain ⟨-, still, -⟩ := each c
    exact still
  · obtain ⟨-, -, counts⟩ := each c
    exact counts

theorem bankOwners_of_vacant (h : s.Vacant) (b : Bank) : s.bankOwners b = [] := by
  refine List.eq_nil_iff_forall_not_mem.2 fun p there => ?_
  obtain ⟨c, -, own⟩ := (mem_bankOwners s b p).1 there
  have unowned := h.unowned c
  rw [owner_eq_some.2 own] at unowned
  cases unowned

theorem loseField_of_vacant (h : s.Vacant) (b : Bank) : SameBut [.chans, .banks] s (s.loseField b) := by
  have aborted : s.calAborted b = none := by simp [State.calAborted, h.cal]
  unfold State.loseField
  rw [bankOwners_of_vacant h, aborted]
  intro y hy
  cases y <;> simp [Part.Same, notifyAll_nil] at hy ⊢

theorem restoreField_of_vacant (h : s.Vacant) (b : Bank) : SameBut [.chans, .banks] s (s.restoreField b) := by
  unfold State.restoreField
  rw [bankOwners_of_vacant h]
  intro y hy
  cases y <;> simp [Part.Same, notifyAll_nil] at hy ⊢

theorem not_lossDue_of_restoreDue {x : BankState} (due : x.restoreDue) : x.lossDue = false := by
  simp only [BankState.restoreDue, Bool.and_eq_true, decide_eq_true_eq] at due
  simp [BankState.lossDue, due.1]

/-- The field events of one bank. -/
theorem bankEvents_of_vacant (h : s.Vacant) (b : Bank) :
    SameBut [.chans, .banks] s ((s.takeLoss b).takeRestore b) ∧
      (∀ e, ((s.takeLoss b).takeRestore b).bank e = if b = e then (s.bank b).afterEvents else s.bank e) ∧
      ∀ c, ((s.takeLoss b).takeRestore b).chan c =
        if bankOf c = b then (s.chan c).afterEvents (s.bank b) else s.chan c := by
  have unrunning : ∀ c, s.ownerRunning (s.chan c) = false := fun c => by simp [State.ownerRunning, h.unowned c]
  by_cases loss : (s.bank b).lossDue
  · have lost : s.takeLoss b = s.loseField b := by rw [State.takeLoss, if_pos loss, takeAllFlags_of_vacant h]
    have stays : ((s.loseField b).bank b).restoreDue = false := by
      rw [bank_loseField, if_pos rfl]
      rfl
    rw [lost, takeRestore_of_not_due stays]
    refine ⟨loseField_of_vacant h b, fun e => ?_, fun c => ?_⟩
    · rw [bank_loseField, BankState.afterEvents, if_pos loss]
    · rw [chan_loseField, Chan.afterEvents, if_pos loss]
  · rw [takeLoss_of_not_due (by simpa using loss)]
    by_cases restore : (s.bank b).restoreDue
    · have restored : s.takeRestore b = s.restoreField b := by
        rw [State.takeRestore, if_pos restore, takeAllFlags_of_vacant h]
      rw [restored]
      refine ⟨restoreField_of_vacant h b, fun e => ?_, fun c => ?_⟩
      · rw [bank_restoreField, BankState.afterEvents, if_neg loss, if_pos restore]
      · rw [chan_restoreField, Chan.afterEvents, if_neg loss, if_pos restore, unrunning]
    · rw [takeRestore_of_not_due (by simpa using restore)]
      refine ⟨.refl _ s, fun e => ?_, fun c => ?_⟩
      · rw [BankState.afterEvents, if_neg loss, if_neg restore]
        split
        · next e => rw [e]
        · rfl
      · rw [Chan.afterEvents, if_neg loss, if_neg restore, ite_self]

/-- The field events of the banks of a list, each on its own bank. -/
theorem fieldEvents_of_vacant {l : List Bank} : l.Nodup → ∀ {s : State}, s.Vacant →
    let t := l.foldl (fun t b => (t.takeLoss b).takeRestore b) s
    t.Vacant ∧ SameBut [.chans, .banks] s t ∧
      (∀ b, t.bank b = if b ∈ l then (s.bank b).afterEvents else s.bank b) ∧
      ∀ c, t.chan c = if bankOf c ∈ l then (s.chan c).afterEvents (s.bank (bankOf c)) else s.chan c := by
  induction l with
  | nil => exact fun _ s h => ⟨h, .refl _ s, fun b => by simp, fun c => by simp⟩
  | cons b l ih =>
    intro distinct s h
    obtain ⟨apart, distinct⟩ := List.nodup_cons.1 distinct
    obtain ⟨same, bank, chan⟩ := bankEvents_of_vacant h b
    obtain ⟨vacant, same', bank', chan'⟩ := ih distinct (vacant_of_events h same chan)
    refine ⟨vacant, same.trans same', fun e => ?_, fun c => ?_⟩
    · rw [List.foldl_cons, bank', bank]
      by_cases here : b = e
      · subst here
        simp [apart]
      · simp [here, Ne.symm here]
    · rw [List.foldl_cons, chan', bank, chan]
      by_cases here : bankOf c = b
      · subst here
        simp [apart]
      · simp [here, Ne.symm here]

/-! ### The timer-unit event and what falls due at it -/

theorem countTimer_of_still {r : Chan} (still : r.drive = .off ∨ r.drive = .forced) : r.countTimer = r := by
  rw [Chan.countTimer, if_neg (by rcases still with e | e <;> simp [e])]

theorem countLease_of_shut {x : Session} (shut : x.isOpen = false) (e r : Bool) : x.countLease e r = x := by
  rw [Session.countLease, if_neg (by simp [shut])]

theorem takeUnit_of_vacant (h : s.Vacant) :
    SameBut [.timebase, .waitsDue, .leasesDue, .renewed] s s.takeUnit ∧
      s.takeUnit.timebase =
        if s.unitDue then { s.timebase with tickCount := 0, unitCounter := s.timebase.unitCounter + 1 }
        else s.timebase := by
  by_cases due : s.unitDue
  · rw [takeUnit_of_due due ((flagsDue_eq_false s).2 h.counts)]
    obtain ⟨chan, timebase, claims, -, session, -, -, same⟩ := countUnit_spec s
    have claims' : s.countUnit.claims = s.claims := by
      rw [claims, h.claims]
      simp
    have sessions : s.countUnit.sessions = s.sessions := sessions_ext fun p => by
      rw [session, countLease_of_shut (h.shut p), ite_self]
    have chans : s.countUnit.chans = s.chans := chans_ext fun c => by rw [chan, countTimer_of_still (h.still c)]
    refine ⟨fun y hy => ?_, by rw [timebase, if_pos due]⟩
    cases y with
    | claims => exact claims'
    | sessions => exact sessions
    | chans => exact chans
    | timebase | waitsDue | leasesDue | renewed => simp at hy
    | _ => exact same _ (by simp)
  · rw [takeUnit_of_not_due (by simpa using due), if_neg due]
    exact ⟨.refl _ s, rfl⟩

theorem takeExpiries_of_vacant (h : s.Vacant) (n : Nat) : s.takeExpiries n = s := by
  have due : ∀ c, (s.chan c).timerDue = false := fun c => by
    rcases h.still c with drive | drive <;> simp [Chan.timerDue, drive]
  have silent : (allChannels.flatMap fun c =>
      if (s.chan c).timerDue && decide (c.val ≤ n) then (s.chan c).expiryNotes c else []) = [] := by
    simp [List.flatMap_eq_nil_iff, due]
  unfold State.takeExpiries
  rw [silent, mapChans_id s fun c => by simp [due]]
  rfl

theorem takeClaimExpiry_of_vacant (h : s.Vacant) : SameBut [.waitsDue] s s.takeClaimExpiry := by
  cases due : s.waitsDue with
  | false =>
    rw [takeClaimExpiry_of_not_due due]
    exact .refl _ s
  | true =>
    have claims : s.countWaits.claims = s.claims := by simp [State.countWaits, h.claims]
    rw [takeClaimExpiry_of_due due ((flagsDue_eq_false s).2 h.counts), expireClaims_of_none fun k there => by
      rw [claims, h.claims] at there
      cases there]
    intro y hy
    cases y with
    | claims => exact claims
    | waitsDue => simp at hy
    | _ => exact sameBut_countWaits s _ (by simp)

theorem takeLapse_of_vacant (h : s.Vacant) : SameBut [.leasesDue, .renewed] s s.takeLapse := by
  cases due : s.leasesDue with
  | false =>
    rw [takeLapse_of_not_due due]
    exact .refl _ s
  | true =>
    have session : ∀ p, s.countLeases.session p = s.session p := fun p => by
      rw [session_countLeases, countLease_of_shut (h.shut p)]
    have shut : ∀ p, (s.session p).isOpen = false := h.shut
    rw [takeLapse_of_due due ((flagsDue_eq_false s).2 h.counts), lapseSessions_of_none fun p => by
      rw [session]
      simp [Session.lapseDue, shut p]]
    intro y hy
    cases y with
    | sessions => exact sessions_ext session
    | leasesDue | renewed => simp at hy
    | _ => exact sameBut_countLeases s _ (by simp)

/-! ### The tick taken in full -/

theorem settled_eq_takeDue (s : State) : s.settled = s.takeDue := by
  unfold State.settled
  split
  · next quiet => exact (takeDue_of_quiet quiet).symm
  · rfl

theorem settled_of_vacant (h : s.Vacant) :
    s.settled.timebase =
        (if s.unitDue then { s.timebase with tickCount := 0, unitCounter := s.timebase.unitCounter + 1 }
        else s.timebase) ∧
      (∀ b, s.settled.bank b = (s.bank b).afterEvents) ∧
      (∀ c, s.settled.chan c = (s.chan c).afterEvents (s.bank (bankOf c))) ∧
      SameBut [.chans, .banks, .timebase, .stepDue, .waitsDue, .leasesDue, .renewed] s s.settled := by
  have listed : ∀ b : Bank, b ∈ allBanks := by decide
  rw [settled_eq_takeDue, State.takeDue, takeAllFlags_of_vacant h]
  have step := takeStep_of_vacant h
  have stepped := h.sameBut step (by simp)
  generalize s.takeStep = u at step stepped ⊢
  obtain ⟨evented, events, bank, chan⟩ := fieldEvents_of_vacant (l := allBanks) (by decide) stepped
  rw [← State.takeFieldEvents] at evented events bank chan
  generalize u.takeFieldEvents = v at evented events bank chan ⊢
  obtain ⟨unit, timebase⟩ := takeUnit_of_vacant evented
  have counted := evented.sameBut unit (by simp)
  generalize v.takeUnit = w at unit timebase counted ⊢
  rw [takeExpiries_of_vacant counted]
  have expiry := takeClaimExpiry_of_vacant counted
  have expired := counted.sameBut expiry (by simp)
  generalize w.takeClaimExpiry = x at expiry expired ⊢
  have lapse := takeLapse_of_vacant expired
  have after : SameBut [.timebase, .waitsDue, .leasesDue, .renewed] v x.takeLapse :=
    unit.trans ((expiry.weaken (by simp)).trans (lapse.weaken (by simp)))
  have before : SameBut [.chans, .banks, .stepDue] s v := (step.weaken (by simp)).trans (events.weaken (by simp))
  refine ⟨?_, fun b => ?_, fun c => ?_, (before.weaken (by simp)).trans (after.weaken (by simp))⟩
  · have same : v.timebase = s.timebase := before .timebase (by simp)
    rw [lapse .timebase (by simp), expiry .timebase (by simp), timebase, State.unitDue, State.unitDue, same]
  · rw [after.bank (by simp), bank, if_pos (listed b), step.bank (by simp)]
  · rw [after.chan (by simp), chan, if_pos (listed _), step.chan (by simp), step.bank (by simp)]

end Vacant

section TimebaseWrite

variable {s : State} {p : Port} {period : Period} {multiple : Multiple}

theorem timebaseWriteRequest_locked (opened : ∃ q, s.sessionOpen q) :
    timebaseWriteRequest (period.byte, multiple.byte) s = (s, some (plain .locked)) := by
  have locked : s.locked = true := by
    obtain ⟨q, h⟩ := opened
    exact List.any_eq_true.2 ⟨q, mem_allPorts q, h⟩
  simp [timebaseWriteRequest, locked]

theorem timebaseWriteRequest_accepted (shut : ∀ q, s.sessionOpen q = false) :
    timebaseWriteRequest (period.byte, multiple.byte) s =
      (s.settled.setTimebase period multiple, some ⟨.ok, false, .timebaseSet period multiple⟩) := by
  have unlocked : s.locked = false := by
    rw [State.locked, List.any_eq_false]
    intro q _
    simp [shut q]
  simp [timebaseWriteRequest, unlocked]

/-- A code that names no period or no multiple (R159, check 1). -/
theorem timebaseWriteRequest_badArg {b m : Byte} (bad : 4 < b.toNat ∨ 2 < m.toNat) :
    timebaseWriteRequest (b, m) s = (s, some (plain .badArg)) := by
  rcases bad with h | h
  · simp [timebaseWriteRequest, periodOf_eq_none h]
  · simp [timebaseWriteRequest, multipleOf_eq_none h]

theorem lossDue_iff {x : BankState} : x.lossDue ↔ x.field = .ok ∧ 2 ≤ x.count := by
  simp [BankState.lossDue]

theorem restoreDue_iff {x : BankState} : x.restoreDue ↔ x.field = .lost ∧ 8 ≤ x.count := by
  simp [BankState.restoreDue]

theorem sound_newSelection (sound : s.Sound) (p : Port) : (s.newSelection p).Sound :=
  sound_port sound p (fun x => { x with sending := none }) rfl

theorem not_renewed_settled (sound : s.Sound) (q : Port) : s.settled.renewed[q] = false := by
  obtain ⟨-, unit, -, leases⟩ := nothing_waits_settled s
  have settled : s.settled.Sound := (moves_settled s).keeps (fun _ _ => Move.keeps_sound) sound
  exact not_renewed_of_nothing_waits settled.renewals unit leases q

/-- The effect of a WRITE on the part without a session (R160), in the terms of the statement. -/
theorem timebaseWrite_effect {kind seq : Byte} {r : Reply} (vacant : s.Vacant) (sound : s.Sound) :
    let t := (s.settled.setTimebase period multiple).complete p kind seq r
    let ticks := match s.timebase.multiple with | .m8 => 8 | .m32 => 32 | .m128 => 128
    t.timebase =
        { s.timebase with
          period := period, multiple := multiple, tickCount := 0
          unitCounter := if ticks ≤ s.timebase.tickCount then s.timebase.unitCounter + 1 else s.timebase.unitCounter } ∧
      t.stepDue = false ∧ t.waitsDue = false ∧ t.leasesDue = false ∧ (∀ q : Port, t.renewed[q] = false) ∧
      (∀ b, t.bank b = (s.bank b).afterEvents) ∧ ∀ c, t.chan c = (s.chan c).afterEvents (s.bank (bankOf c)) := by
  intro t ticks
  obtain ⟨timebase, bank, chan, -⟩ := settled_of_vacant vacant
  obtain ⟨step, -, waits, leases⟩ := nothing_waits_settled s
  refine ⟨?_, step, waits, leases, not_renewed_settled sound, bank, chan⟩
  show { s.settled.timebase with period := period, multiple := multiple, tickCount := 0 } = _
  rw [timebase]
  by_cases due : s.unitDue
  · have due' : ticks ≤ s.timebase.tickCount := unitDue_iff.1 due
    simp only [if_pos due, if_pos due']
  · have due' : ¬ticks ≤ s.timebase.tickCount := mt unitDue_iff.2 due
    simp only [if_neg due, if_neg due']

/-- Settles O34. -/
theorem timebaseWriteSetsParameters : Obligations.TimebaseWriteSetsParameters := by
  refine ⟨?_, fun p f s _ taken payload short => ?_⟩
  · intro p f s b m taken payload
    have decoded : timebaseOperands f.payload = some (b, m) := by rw [payload]; rfl
    have answers : ∀ r, timebaseWriteRequest (b, m) (s.newSelection p) = (s.newSelection p, some r) →
        OnlyAnswers (.timebaseWrite p f) s p kindTimebase f r := fun r =>
      onlyAnswers_of_receive (i := .timebaseWrite p f) rfl taken (by simp [payload]) decoded (gate_exempt _)
    refine ⟨fun bad => answers _ (timebaseWriteRequest_badArg bad), ?_⟩
    rintro period multiple rfl rfl
    refine ⟨fun opened => answers _ (timebaseWriteRequest_locked opened), fun quiet shut => ?_,
      fun sound arbitrated shut => ?_⟩
    · have settled : (s.newSelection p).settled = s.newSelection p := settled_of_quiet quiet
      have block := timebaseWriteRequest_accepted (s := s.newSelection p) (period := period) (multiple := multiple) shut
      rw [settled] at block
      obtain ⟨next, answered, same⟩ := exec_executed (i := .timebaseWrite p f) rfl taken (by simp [payload]) decoded
        (gate_exempt _) block (sameBut_setTimebase _ period multiple) (by simp)
      exact ⟨_, next, rfl, answered, same.weaken (by simp)⟩
    · intro ticks lost restored
      have vacant := vacant_of_sound (sound_newSelection sound p) shut (ready_iff.1 (takes_iff.1 taken).1).1
      obtain ⟨-, -, -, same⟩ := settled_of_vacant vacant
      obtain ⟨next, answered, kept⟩ := exec_executed (i := .timebaseWrite p f) rfl taken (by simp [payload]) decoded
        (gate_exempt _) (timebaseWriteRequest_accepted (s := s.newSelection p) (period := period)
          (multiple := multiple) shut)
        ((same.trans ((sameBut_setTimebase _ period multiple).weaken (by simp)))) (by simp)
      obtain ⟨timebase, step, waits, leases, renewed, bank, chan⟩ :=
        timebaseWrite_effect (p := p) (period := period) (multiple := multiple) (kind := kindTimebase) (seq := f.seq)
          (r := ⟨.ok, false, .timebaseSet period multiple⟩) vacant (sound_newSelection sound p)
      simp only [bank_newSelection, chan_newSelection] at bank chan
      have unowned : ∀ c, (s.chan c).owner = none := vacant.unowned
      have exclusive : ∀ e, restored e → ¬lost e := fun e ⟨lostField, _⟩ ⟨ok, _⟩ => by
        rw [lostField] at ok
        cases ok
      refine ⟨_, next, timebase, step, waits, leases, renewed, fun e => ⟨fun h => ?_, fun h => ?_, fun h h' => ?_⟩,
        fun c => ⟨fun h => ?_, fun h x forced => ?_, fun h unforced => ?_, fun h h' => ?_⟩, answered,
        kept.weaken (by simp)⟩
      · rw [bank, BankState.afterEvents, if_pos (lossDue_iff.2 h)]
      · rw [bank, BankState.afterEvents, if_neg (mt lossDue_iff.1 (exclusive e h)), if_pos (restoreDue_iff.2 h)]
      · rw [bank, BankState.afterEvents, if_neg (mt lossDue_iff.1 h), if_neg (mt restoreDue_iff.1 h')]
      · rw [chan, Chan.afterEvents, if_pos (lossDue_iff.2 h)]
      · rw [chan, Chan.afterEvents, if_neg (mt lossDue_iff.1 (exclusive _ h)), if_pos (restoreDue_iff.2 h),
          restore_of_unowned (unowned c), forced]
      · rw [chan, Chan.afterEvents, if_neg (mt lossDue_iff.1 (exclusive _ h)), if_pos (restoreDue_iff.2 h),
          restore_of_unowned (unowned c), unforced]
      · rw [chan, Chan.afterEvents, if_neg (mt lossDue_iff.1 h), if_neg (mt restoreDue_iff.1 h')]
  · exact onlyAnswers_of_receive (i := .timebaseUnknownVariant p f) rfl taken (by simpa using short)
      (anyOperands_of_ne_nil payload) (gate_exempt _) rfl

end TimebaseWrite

end Sys2Proof.Machine

/-! # The bytes of the frames a fetch returns (chapter 10) -/

namespace Sys2Proof.Machine

/-! ## FETCH and the end of its selection (R170, R171) -/

section Fetch

variable {s : State} {p : Port}

theorem attn_eq : s.attn p = decide (s.queue p ≠ []) := by
  rw [State.attn, Bool.eq_iff_iff]
  simp

/-- The frame fixed by the transport state (R170, R171). -/
theorem fetchFrame_spec :
    (s.fetchFrame p).queueFlag = s.attn p ∧
      ((s.port p).transport = .ready →
        s.fetchFrame p = ⟨0x00, 0x00, .noneHeld, s.attn p, false, false, false, .empty⟩) ∧
      (∀ seq, (s.port p).transport = .executing seq →
        s.fetchFrame p = ⟨kindCal, seq, .pending, s.attn p, false, false, false, .empty⟩) ∧
      ∀ r replay, (s.port p).transport = .answered r replay →
        s.fetchFrame p =
          ⟨r.kind, r.seq, r.result, s.attn p, replay, (s.port p).overrunPending, r.clamped, r.payload⟩ := by
  unfold State.fetchFrame
  cases (s.port p).transport with
  | ready => simp
  | executing seq => simp
  | answered r replay =>
    refine ⟨rfl, fun h => (by cases h), fun seq h => (by cases h), fun r' replay' h => ?_⟩
    cases h
    rfl

theorem clockedOut_response {x : PortState} {f : SentFrame} {r : Response} {replay : Bool} (held : x.sending = some f)
    (answered : x.transport = .answered r replay) (some : f.result ≠ .noneHeld) (done : f.result ≠ .pending) :
    x.clockedOut = { x with transport := .ready, overrunPending := false, sending := none } := by
  simp [PortState.clockedOut, held, answered, SentFrame.isResponse, some, done]

theorem clockedOut_other {x : PortState} {f : SentFrame} (held : x.sending = some f)
    (empty : f.result = .noneHeld ∨ f.result = .pending) : x.clockedOut = { x with sending := none } := by
  have idle : f.isResponse = false := by rcases empty with h | h <;> simp [SentFrame.isResponse, h]
  unfold PortState.clockedOut
  rw [held]
  cases x.transport <;> simp [idle]

end Fetch

/-! ## Fields (R173) -/

section Fields

theorem halfBytes_eq (h : Half) : halfBytes h = [(h >>> 8).setWidth 8, (h.setWidth 8 : Byte)] := by
  have high : h.extractLsb' 8 8 = (h >>> 8).setWidth 8 := by
    ext i hi
    simp [BitVec.getElem_extractLsb']
  have low : h.extractLsb' 0 8 = h.setWidth 8 := by
    ext i hi
    simp [BitVec.getElem_extractLsb']
  rw [halfBytes, high, low]

/-- A signed value in four bytes as two halves (R175). -/
theorem signed4Bytes_eq (v : Int) :
    let w : BitVec 32 := BitVec.ofInt 32 (max (-2147483647) (min 2147483647 v))
    signed4Bytes v = halfBytes ((w >>> 16).setWidth 16) ++ halfBytes (w.setWidth 16) := by
  intro w
  have e : ∀ (x : BitVec 32), [x.extractLsb' 24 8, x.extractLsb' 16 8, x.extractLsb' 8 8, x.extractLsb' 0 8] =
      halfBytes ((x >>> 16).setWidth 16) ++ halfBytes (x.setWidth 16) := by
    intro x
    simp only [halfBytes, List.cons_append, List.nil_append, List.cons.injEq, and_true]
    refine ⟨?_, ?_, ?_, ?_⟩ <;> ext i hi
    · have inside : 8 + i < 16 := by omega
      simp [BitVec.getElem_extractLsb', inside]
      congr 1
      omega
    all_goals
      simp [BitVec.getElem_extractLsb']
      intro _
      omega
  exact e w

/-- The bits of a flags byte, bit 0 first. -/
theorem getLsbD_flagByte : ∀ (l : List Bool) (i : Nat), i < 8 → (flagByte l).getLsbD i = l.getD i false
  | [], i, _ => by simp [flagByte]
  | b :: l, 0, _ => by cases b <;> simp [flagByte, boolByte]
  | b :: l, i + 1, h => by
    have rest := getLsbD_flagByte l i (by omega)
    have inside : i < 8 := by omega
    rw [List.getD_cons_succ, ← rest, flagByte]
    cases b <;> simp [boolByte, h, inside]

end Fields

/-! ## The CRC (R165) -/

section Crc

/-- One bit of the CRC, the bit of the line taken in beside the register. -/
theorem crcBit_xor (r y : Half) :
    crcBit (r ^^^ y) =
      (if r.getLsbD 15 ≠ y.getLsbD 15 then (r <<< 1) ^^^ 0x1021 else r <<< 1) ^^^ (y <<< 1) := by
  have top : (r ^^^ y).msb = (r.getLsbD 15 ^^ y.getLsbD 15) := by simp [BitVec.msb_eq_getLsbD_last]
  unfold crcBit
  rw [top, BitVec.shiftLeft_xor_distrib]
  cases r.getLsbD 15 <;> cases y.getLsbD 15 <;> simp [BitVec.xor_assoc, BitVec.xor_comm (y <<< 1)]

/-- A byte taken in bit by bit, most significant first. -/
theorem crcByte_eq (r : Half) (b : Byte) :
    crcByte r b =
      (List.range 8).foldl
        (fun (r : Half) i => if r.getLsbD 15 ≠ b.getLsbD (7 - i) then (r <<< 1) ^^^ 0x1021 else r <<< 1) r := by
  set y : Half := b ++ (0 : Byte) with hy
  have bit : ∀ i < 8, (y <<< i).getLsbD 15 = b.getLsbD (7 - i) := by
    intro i hi
    have here : ¬ 15 < i := by omega
    have high : ¬ 15 - i < 8 := by omega
    have place : 15 - i - 8 = 7 - i := by omega
    rw [BitVec.getLsbD_shiftLeft, hy, BitVec.getLsbD_append]
    simp [here, high, place]
  have gone : y <<< 8 = 0 := by
    ext i hi
    have low : i - 8 < 8 := by omega
    rw [BitVec.getElem_shiftLeft, hy, BitVec.getElem_append]
    simp [low]
  have steps : ∀ n ≤ 8, (fun x : Half => crcBit x)^[n] (r ^^^ y) =
      (List.range n).foldl
        (fun (r : Half) i => if r.getLsbD 15 ≠ b.getLsbD (7 - i) then
          (r <<< 1) ^^^ 0x1021 else r <<< 1) r ^^^ y <<< n := by
    intro n
    induction n with
    | zero => simp
    | succ n ih =>
      intro h
      rw [Function.iterate_succ_apply', ih (by omega), crcBit_xor, bit n (by omega), List.range_succ, List.foldl_concat,
        ← BitVec.shiftLeft_add]
  have all := steps 8 le_rfl
  rw [gone, show ∀ x : Half, x ^^^ 0 = x from fun x => BitVec.xor_zero] at all
  exact all

theorem crc16_concat (l : List Byte) (b : Byte) : crc16 (l ++ [b]) = crcByte (crc16 l) b := by
  rw [crc16, List.foldl_concat]
  rfl

/-- The check value of the polynomial (R165). -/
theorem crc16_check : crc16 [0x31, 0x32, 0x33, 0x34, 0x35, 0x36, 0x37, 0x38, 0x39] = 0x29B1 := by decide +kernel

end Crc

/-! ## What the layouts say of single bytes (R170, R175) -/

section Layouts

/-- SDO idles while the fetch code or a request is received. -/
theorem sdo_of_not_fetching {s : State} {p : Port} {received : List Byte} (other : received.head? ≠ some 0xA5) :
    s.sdo p received = 0xFF := by
  unfold State.sdo
  cases received with
  | nil => rfl
  | cons first later =>
    cases (s.port p).sending with
    | none => rfl
    | some x => exact if_neg fun e => other (by rw [e]; rfl)

/-- After the fetch code SDO carries the bytes of the frame one by one. -/
theorem sdo_fetching {s : State} {p : Port} {later : List Byte} {x : SentFrame}
    (held : (s.port p).sending = some x) : s.sdo p (0xA5 :: later) = x.bytes.getD later.length 0xFF := by
  unfold State.sdo
  rw [held]
  exact if_pos rfl

/-- The bits of the bank states of a STATUS response. -/
theorem getLsbD_bankFlags (banks : Vector FieldState 4) (b : Bank) :
    (bankFlags banks).getLsbD b = decide (banks[b] = .ok) := by
  rw [bankFlags, getLsbD_flagByte _ _ (by omega)]
  simp [List.getD_eq_getElem?_getD, b.isLt]

/-- The presence byte as the bits of R175, channel first. -/
def NoteBody.present : NoteBody → List Bool
  | .granted _ _ => [false, false, true, false, true]
  | .revoked _ _ => [true, false, false, true, false]
  | .claimExpired _ => [false, false, true, false, false]
  | .handoverDone _ _ | .handoverForced _ _ | .handoverStalled _ _ => [true, false, false, false, true]
  | .fieldLost _ | .fieldRestored _ => [false, true, false, false, false]
  | .openLoad _ _ | .deviation _ _ => [true, false, false, false, true]
  | .holdOn | .holdOff | .leaseLapsed => [false, false, false, false, false]
  | .calAborted _ => [true, false, false, false, false]
  | .overflow _ => [false, false, false, false, true]

theorem presence_eq (b : NoteBody) : b.presence = flagByte b.present := by
  cases b <;> rfl

theorem getLsbD_presence (b : NoteBody) {i : Nat} (h : i < 5) : b.presence.getLsbD i = b.present.getD i false := by
  rw [presence_eq, getLsbD_flagByte _ _ (by omega)]

end Layouts

/-- Settles O43: the frame a fetch fixes, the end of its selection, and the bytes of every layout. -/
theorem fetchesReturnResponses : Obligations.FetchesReturnResponses := by
  unfold Obligations.FetchesReturnResponses
  refine ⟨fun p s due => ?_, fun p s x due held => ?_, ?_⟩
  · obtain ⟨flag, ready, executing, answered⟩ := fetchFrame_spec (s := s) (p := p)
    refine ⟨s.fetch p, s.fetchFrame p, ?_, by simp [State.fetch], fun q other => ?_, ?_, flag.trans attn_eq,
      fun h => ?_, fun seq h => ?_, fun r replay h => ?_⟩
    · rw [show exec (.fetch p) s = .next (s.takeAllFlags.fetch p) from rfl, takeAllFlags_of_not_due due]
    · simp [State.fetch, other.symm]
    · exact sameBut_modPort _
    · rw [ready h]
      simp
    · rw [executing seq h]
      simp
    · rw [answered r replay h]
      simp
  · refine ⟨s.modPort p PortState.clockedOut, ?_, fun q other => by simp [other.symm], sameBut_modPort _,
      fun r replay answered full done => ?_, fun empty => ?_⟩
    · rw [show exec (.responseClockedOut p) s = .next (s.takeAllFlags.modPort p PortState.clockedOut) from rfl,
        takeAllFlags_of_not_due due]
    · rw [port_modPort, if_pos rfl]
      exact clockedOut_response held answered full done
    · rw [port_modPort, if_pos rfl]
      exact clockedOut_other held empty
  · intro one two signedTwo signedFour yes channel driving phase
    have one_eq : one = natByte := rfl
    have two_eq : two = halfBytes := funext fun h => (halfBytes_eq h).symm
    have signedTwo_eq : signedTwo = signedBytes := funext fun v => congrFun two_eq _
    have signedFour_eq : signedFour = signed4Bytes := by
      funext v
      rw [signed4Bytes_eq, ← two_eq]
    have yes_eq : yes = boolByte := rfl
    have channel_eq : channel = fun c => c.elim absentByte channelByte := by
      funext c
      cases c <;> rfl
    have driving_eq : driving = DriveRange.byte := by
      funext d
      cases d <;> rfl
    have phase_eq : phase = phaseByte := by
      funext x
      cases x with
      | none => rfl
      | some x => cases x <;> rfl
    clear_value signedTwo signedFour
    clear_value one two yes channel driving phase
    subst one_eq two_eq signedTwo_eq signedFour_eq yes_eq channel_eq driving_eq phase_eq
    refine ⟨fun s p received => ⟨sdo_of_not_fetching, fun later x e held => ?_⟩, fun x => ?_,
      ⟨rfl, crc16_check, fun l b => ?_⟩, by decide, ?_, fun r => ?_, fun n => ?_⟩
    · intro body sent
      subst e
      have byte : s.sdo p (0xA5 :: later) = sent.getD later.length 0xFF := sdo_fetching held
      refine ⟨fun i b at_i n => ?_, fun beyond => ?_⟩
      · rw [byte, n, List.getD_eq_getElem?_getD, at_i]
        rfl
      · rw [byte, List.getD_eq_default _ _ beyond]
    · refine ⟨?_, ?_, ?_, ?_⟩ <;> exact getLsbD_flagByte _ _ (by decide)
    · rw [crc16_concat, crcByte_eq]
    · refine ⟨rfl, fun _ _ => rfl, fun _ _ _ => rfl, fun _ => rfl, fun _ => rfl, fun _ => rfl, fun _ => rfl,
        fun _ _ => rfl, fun _ _ _ _ => rfl, fun _ _ _ _ => rfl, fun _ _ _ => rfl,
          fun period multiple units hold lock => ?_,
        fun _ _ => rfl, by decide, by decide,
          fun x => ⟨x.session.state.byte, bankFlags x.banks, ?_, ?_, getLsbD_bankFlags _⟩⟩
      · cases hold <;> rfl
      · have hold : x.hold.byte = boolByte (decide (x.hold = .asserted)) := by cases x.hold <;> rfl
        rw [← hold]
        rfl
      · cases x.session.state <;> rfl
    · refine ⟨r.own.byte, r.own.ownerByte, r.drive.byte, r.flags, ?_, ?_, ?_, ?_⟩
      · have bytes : r.bytes =
            [natByte r.channel.val, r.range.byte, r.own.byte, r.own.ownerByte, r.drive.byte, r.flags] ++
              signedBytes (r.target.getD 0) ++ signedBytes r.applied ++ signedBytes r.readback := rfl
        rw [bytes]
        cases r.range <;> rfl
      · cases r.own <;> exact ⟨rfl, rfl⟩
      · cases r.drive <;> rfl
      · refine ⟨?_, ?_, ?_, ?_, ?_, ?_⟩ <;> exact getLsbD_flagByte _ _ (by decide)
    · intro expected
      refine ⟨n.body.presence, ?_, fun i h => ?_⟩
      · obtain ⟨body, stamp⟩ := n
        cases body <;> rfl
      · rw [getLsbD_presence _ h]
        obtain ⟨body, stamp⟩ := n
        cases body <;> rfl

end Sys2Proof.Machine

/-! # The monitor's flag changes, and what finds them taken (R113, R122, R124) -/

namespace Sys2Proof.Machine

section FlagChanges

variable {s : State} {c : Channel} {n : Nat}

theorem flagsTaken_of_not_due {r : Chan} (loads : r.openLoadCount < 4) (deviates : r.deviationCount < 3) :
    r.flagsTaken n c = r ∧ r.flagNotes n c = [] := by
  have load : r.openLoadDue = false := by simpa [Chan.openLoadDue] using loads
  have deviation : r.deviationDue = false := by simpa [Chan.deviationDue] using deviates
  simp [Chan.flagsTaken, Chan.flagNotes, load, deviation]

/-- A place later than `n` is not reached. -/
theorem flagsTaken_of_later {r : Chan} (later : n < openLoadPlace c) :
    r.flagsTaken n c = r ∧ r.flagNotes n c = [] := by
  have load : ¬ openLoadPlace c ≤ n := by omega
  have deviation : ¬ deviationPlace c ≤ n := by simp only [openLoadPlace, deviationPlace] at *; omega
  simp [Chan.flagsTaken, Chan.flagNotes, load, deviation]

/-- The flag changes up to `n` when those of one channel come first: no other channel is touched. -/
theorem takeFlags_first (first : ∀ e, e < c → (s.chan e).openLoadCount < 4 ∧ (s.chan e).deviationCount < 3)
    (reach : ∀ e, c < e → n < openLoadPlace e) :
    (s.takeFlags n).chan c = (s.chan c).flagsTaken n c ∧ (∀ e, e ≠ c → (s.takeFlags n).chan e = s.chan e) ∧
      Handed s (s.takeFlags n) ((s.chan c).flagNotes n c) ∧ SameBut [.chans, .queues] s (s.takeFlags n) := by
  have others : ∀ e, e ≠ c → (s.chan e).flagsTaken n e = s.chan e ∧ (s.chan e).flagNotes n e = [] := by
    intro e other
    rcases lt_or_gt_of_ne other with before | behind
    · exact flagsTaken_of_not_due (first e before).1 (first e before).2
    · exact flagsTaken_of_later (reach e behind)
  refine ⟨chan_takeFlags s n c, fun e other => by rw [chan_takeFlags, (others e other).1], ?_, sameBut_takeFlags s n⟩
  have handed := handed_takeFlags s n
  rwa [flatMap_allChannels _ c fun e other => (others e other).2] at handed

theorem openLoad_reach : ∀ e, c < e → openLoadPlace c < openLoadPlace e := fun e behind => by
  have := Fin.lt_def.1 behind
  simp only [openLoadPlace]
  omega

theorem deviation_reach : ∀ e, c < e → deviationPlace c < openLoadPlace e := fun e behind => by
  have := Fin.lt_def.1 behind
  simp only [openLoadPlace, deviationPlace]
  omega

/-- The open-load flag change alone: the deviation of the same channel comes after it. -/
theorem flagsTaken_openLoad {r : Chan} (due : 4 ≤ r.openLoadCount) :
    r.flagsTaken (openLoadPlace c) c = r.flipOpenLoad ∧
      r.flagNotes (openLoadPlace c) c = r.toOwner (.openLoad c !r.openLoad) := by
  have load : r.openLoadDue := by simpa [Chan.openLoadDue] using due
  have behind : ¬ deviationPlace c ≤ openLoadPlace c := by simp only [openLoadPlace, deviationPlace]; omega
  simp [Chan.flagsTaken, Chan.flagNotes, load, behind]

theorem flagsTaken_deviation {r : Chan} (due : 3 ≤ r.deviationCount) (loads : r.openLoadCount < 4) :
    r.flagsTaken (deviationPlace c) c = r.flipDeviation ∧
      r.flagNotes (deviationPlace c) c = r.toOwner (.deviation c !r.deviation) := by
  have deviation : r.deviationDue := by simpa [Chan.deviationDue] using due
  have load : r.openLoadDue = false := by simpa [Chan.openLoadDue] using loads
  simp [Chan.flagsTaken, Chan.flagNotes, deviation, load]

end FlagChanges

/-! ## What comes after the monitor's event acts on the state with the flags taken -/

section Taken

variable (s : State)

theorem receive_takeAllFlags {α : Type} (p : Port) (kind : Byte) (lead : List Byte) (f : Frame) (g : GateClass)
    (refusal : Payload) (operands : List Byte → Option α) (run : α → State → State × Option Reply) :
    s.takeAllFlags.receive p kind lead f g refusal operands run = s.receive p kind lead f g refusal operands run := by
  rw [State.receive, takeAllFlags_takeAllFlags]
  rfl

theorem bank_takeAllFlags (b : Bank) : s.takeAllFlags.bank b = s.bank b := (sameBut_takeAllFlags s).bank (by simp) b

theorem takeLoss_takeAllFlags {b : Bank} (due : (s.bank b).lossDue) : s.takeAllFlags.takeLoss b = s.takeLoss b := by
  rw [State.takeLoss, bank_takeAllFlags, if_pos due, takeAllFlags_takeAllFlags, State.takeLoss, if_pos due]

theorem takeRestore_takeAllFlags {b : Bank} (due : (s.bank b).restoreDue) :
    s.takeAllFlags.takeRestore b = s.takeRestore b := by
  rw [State.takeRestore, bank_takeAllFlags, if_pos due, takeAllFlags_takeAllFlags, State.takeRestore, if_pos due]

theorem takeClaimExpiry_takeAllFlags (due : s.waitsDue) : s.takeAllFlags.takeClaimExpiry = s.takeClaimExpiry := by
  have same : s.takeAllFlags.waitsDue = s.waitsDue := sameBut_takeAllFlags s .waitsDue (by simp)
  rw [State.takeClaimExpiry, same, if_pos due, takeAllFlags_takeAllFlags, State.takeClaimExpiry, if_pos due]

theorem takeLapse_takeAllFlags (due : s.leasesDue) : s.takeAllFlags.takeLapse = s.takeLapse := by
  have same : s.takeAllFlags.leasesDue = s.leasesDue := sameBut_takeAllFlags s .leasesDue (by simp)
  rw [State.takeLapse, same, if_pos due, takeAllFlags_takeAllFlags, State.takeLapse, if_pos due]

theorem takeUnit_takeAllFlags (due : s.unitDue) : s.takeAllFlags.takeUnit = s.takeUnit := by
  have same : s.takeAllFlags.unitDue = s.unitDue := by
    rw [State.unitDue, sameBut_takeAllFlags s .timebase (by simp)]
    rfl
  rw [State.takeUnit, same, if_pos due, takeAllFlags_takeAllFlags, State.takeUnit, if_pos due]

theorem takeStep_takeAllFlags (due : s.stepDue) : s.takeAllFlags.takeStep = s.takeStep := by
  have same : s.takeAllFlags.stepDue = s.stepDue := sameBut_takeAllFlags s .stepDue (by simp)
  rw [State.takeStep, same, if_pos due, takeAllFlags_takeAllFlags, State.takeStep, if_pos due]

theorem timerDue_flagsTaken (n : Nat) (c : Channel) (r : Chan) : (r.flagsTaken n c).timerDue = r.timerDue := by
  unfold Chan.flagsTaken
  dsimp only
  split <;> split <;> rfl

theorem timerDue_takeAllFlags (c : Channel) : (s.takeAllFlags.chan c).timerDue = (s.chan c).timerDue := by
  rw [chan_takeAllFlags, timerDue_flagsTaken]

theorem updateTick_takeAllFlags (ticking : s.ticking) (field : Vector Bool 4) (loop : Vector Int 16) {order : TickOrder}
    (waits : order = .stepNow → s.stepDue) :
    s.takeAllFlags.updateTick field loop order = s.updateTick field loop order := by
  have same : s.takeAllFlags.ticking = s.ticking := by
    rw [State.ticking, sameBut_takeAllFlags s .resetAsserted (by simp), sameBut_takeAllFlags s .timebase (by simp)]
    rfl
  have begins : s.takeAllFlags.beginTick field loop = s.beginTick field loop := by
    rw [State.beginTick, settled_takeAllFlags]
    rfl
  unfold State.updateTick
  rw [same, if_pos ticking, if_pos ticking]
  cases order with
  | whole => exact congrArg State.settled begins
  | stepFirst => exact congrArg State.takeStep begins
  | stepLast => exact begins
  | stepNow => exact takeStep_takeAllFlags s (waits rfl)

end Taken

/-- Settles O53: the first flag change due alone, and every later command on the state with the flags taken. -/
theorem flagChangesReported : Obligations.FlagChangesReported := by
  unfold Obligations.FlagChangesReported
  refine ⟨fun c s due first => ?_, fun c s due loads first => ?_, fun c s => ⟨fun loads => ?_, fun deviates => ?_⟩,
    fun s u taken => ?_⟩
  · obtain ⟨flip, notes⟩ := flagsTaken_openLoad (c := c) due
    obtain ⟨chan, others, handed, same⟩ := takeFlags_first first openLoad_reach
    rw [flip] at chan
    rw [notes] at handed
    exact ⟨_, if_pos (decide_eq_true due), chan, others, handed, same⟩
  · obtain ⟨flip, notes⟩ := flagsTaken_deviation (c := c) due loads
    obtain ⟨chan, others, handed, same⟩ := takeFlags_first first deviation_reach
    rw [flip] at chan
    rw [notes] at handed
    exact ⟨_, if_pos (decide_eq_true due), chan, others, handed, same⟩
  · exact if_neg (by simpa [Chan.openLoadDue] using loads)
  · exact if_neg (by simpa [Chan.deviationDue] using deviates)
  · obtain rfl := taken.eq
    have timebase : s.takeAllFlags.timebase = s.timebase := sameBut_takeAllFlags s .timebase (by simp)
    have reset : s.takeAllFlags.resetAsserted = s.resetAsserted := sameBut_takeAllFlags s .resetAsserted (by simp)
    have starting : s.takeAllFlags.starting = s.starting := sameBut_takeAllFlags s .starting (by simp)
    have again := takeAllFlags_takeAllFlags s
    refine ⟨fun i r requests => ?_, fun p received short => ?_, fun p kind f bad => ?_, fun p => ?_, fun p => ?_,
      fun loading ended => ?_, fun verified => ?_, fun b due => ?_, fun b due => ?_, fun due => ?_, fun due => ?_,
      fun due => ?_, fun c due => ?_, fun ticking field loop order waits => ?_, fun ended free => ?_,
        fun ended held => ?_⟩
    · obtain ⟨α, refusal, operands, run, received⟩ := exec_request requests
      rw [received, received, receive_takeAllFlags]
    · simp only [exec, execFrameError, again, if_pos (show frameCutShort received from short)]
    · have wrong : crcGood kind f = false := by
        simp only [Instr.wellFormed, Bool.and_eq_true, Bool.not_eq_true'] at bad
        exact bad.2
      simp only [exec, execCrcErrorFrame, again, wrong, Bool.false_eq_true, if_false]
    · simp only [exec, execFetch, again]
    · simp only [exec, execResponseClockedOut, again]
    · simp only [exec, execStartUpLoadCompletion, again, starting, reset, loading, ended, Bool.not_false, Bool.and_self,
        if_true]
    · simp only [exec, execCommitCompletion, again]
    · exact congrArg Host.Outcome.next (takeLoss_takeAllFlags s due).symm
    · exact congrArg Host.Outcome.next (takeRestore_takeAllFlags s due).symm
    · exact congrArg Host.Outcome.next (takeClaimExpiry_takeAllFlags s due).symm
    · exact congrArg Host.Outcome.next (takeLapse_takeAllFlags s due).symm
    · exact congrArg Host.Outcome.next (takeUnit_takeAllFlags s due).symm
    · simp only [exec, execHandoverTimerExpiry, again, timerDue_takeAllFlags, due, if_true]
    · exact congrArg Host.Outcome.next (updateTick_takeAllFlags s ticking field loop waits).symm
    · simp only [exec, execHoldAssertion, timebase, reset, ended, free, settled_takeAllFlags, Bool.not_false, and_self,
        if_true]
    · simp only [exec, execHoldRelease, timebase, reset, ended, held, settled_takeAllFlags, Bool.not_false, and_self,
        if_true]

end Sys2Proof.Machine

/-! # Handover timer expiries and field events (R85, R86, R114 to R119) -/

namespace Sys2Proof.Machine

section Expiry

variable {s : State} {c : Channel}

theorem timerDue_iff {r : Chan} : r.timerDue ↔ r.drive = .holding ∧ r.timer = some 0 := by simp [Chan.timerDue]

/-- The expiries up to channel `c` when `c` is the lowest channel that is due. -/
theorem takeExpiries_lowest (due : (s.chan c).timerDue) (lowest : ∀ e, e < c → (s.chan e).timerDue = false) :
    (s.takeExpiries c.val).chan c = (s.chan c).expire ∧
      (∀ e, e ≠ c → (s.takeExpiries c.val).chan e = s.chan e) ∧
      Handed s (s.takeExpiries c.val) ((s.chan c).expiryNotes c) := by
  have others : ∀ e, e ≠ c → ((s.chan e).timerDue && decide (e.val ≤ c.val)) = false := by
    intro e other
    rcases lt_or_gt_of_ne other with before | behind
    · simp [lowest e before]
    · have above : ¬ e.val ≤ c.val := not_le.2 (Fin.lt_def.1 behind)
      simp [above]
  have reached : ((s.chan c).timerDue && decide (c.val ≤ c.val)) = true := by simp [due]
  refine ⟨by rw [chan_takeExpiries, if_pos reached], fun e other => ?_, ?_⟩
  · rw [chan_takeExpiries, others e other]
    simp
  · have handed := handed_takeExpiries s c.val
    rw [flatMap_allChannels _ c fun e other => by rw [others e other]; simp, if_pos reached] at handed
    exact handed

/-- Settles O50: the lowest expiry due, by target and handover mode. -/
theorem handoverTimerExpires : Obligations.HandoverTimerExpires := by
  unfold Obligations.HandoverTimerExpires
  intro c s due
  refine ⟨fun h expires flags held lowest => ?_, fun still => if_neg fun expires => still (timerDue_iff.1 expires)⟩
  have timer := timerDue_iff.2 expires
  have value : (s.chan c).heldValue = h := by rw [Chan.heldValue, held]; rfl
  obtain ⟨chan, others, handed⟩ := takeExpiries_lowest timer fun e before =>
    Bool.eq_false_iff.2 fun due => lowest e before (timerDue_iff.1 due)
  refine ⟨s.takeExpiries c.val, ?_, fun target mode => ?_, fun target mode => ?_, fun none => ?_, others,
    sameBut_takeExpiries s _⟩
  · show execHandoverTimerExpiry c s = _
    rw [execHandoverTimerExpiry, if_pos timer, takeAllFlags_of_not_due flags]
  · obtain ⟨v, target⟩ := Option.isSome_iff_exists.1 target
    have expire : (s.chan c).expire = (s.chan c).startRamp := by simp only [Chan.expire, target, mode]
    have notes : (s.chan c).expiryNotes c = (s.chan c).toOwner (.handoverForced c h) := by
      simp only [Chan.expiryNotes, target, mode, value]
    rw [expire] at chan
    rw [notes] at handed
    exact ⟨chan, handed⟩
  · obtain ⟨v, target⟩ := Option.isSome_iff_exists.1 target
    have stops : (s.chan c).expire = { s.chan c with timer := .none } ∧ (s.chan c).expiryNotes c = [] := by
      cases k : (s.chan c).config.handover with
      | matching => exact absurd k mode
      | step => simp [Chan.expire, Chan.expiryNotes, target, k]
      | ramp => simp [Chan.expire, Chan.expiryNotes, target, k]
    rw [stops.1] at chan
    rw [stops.2] at handed
    refine ⟨chan, queues_ext fun p => ?_⟩
    have same := handed p
    rwa [show s.notesFor [] p = [] from rfl, show joined [] (s.queue p) = s.queue p from rfl, ite_self] at same
  · have stops : (s.chan c).expire = { s.chan c with timer := .none } ∧
        (s.chan c).expiryNotes c = (s.chan c).toOwner (.handoverStalled c h) := by
      simp [Chan.expire, Chan.expiryNotes, none, value]
    rw [stops.1] at chan
    rw [stops.2] at handed
    exact ⟨chan, handed⟩

end Expiry

section FieldEvents

variable {s : State} {b : Bank}

theorem notesFor_append (l m : List (Port × NoteBody)) (p : Port) :
    s.notesFor (l ++ m) p = s.notesFor l p ++ s.notesFor m p := by
  simp [State.notesFor]

/-- The record that a field event hands to each owner of the bank, for one port (R117, R119). -/
theorem notesFor_bankOwners (body : NoteBody) (p : Port) [Decidable (∃ c, bankOf c = b ∧ (s.chan c).own = .owned p)] :
    s.notesFor ((s.bankOwners b).map fun q => (q, body)) p =
      if ∃ c, bankOf c = b ∧ (s.chan c).own = .owned p then [s.note body] else [] := by
  rw [notesFor_each s (nodup_bankOwners s b)]
  simp only [mem_bankOwners]

theorem calAborted_of_touched {x : CalContext} (held : s.cal = some x) (place : bankOf x.channel = b)
    (working : x.phase ≠ .committing) : s.calAborted b = some x := by
  rw [State.calAborted, held, Option.filter_some]
  exact if_pos (by simp [place, working])

theorem calAborted_of_spared {x : CalContext} (held : s.cal = some x)
    (spared : bankOf x.channel ≠ b ∨ x.phase = .committing) : s.calAborted b = none := by
  rw [State.calAborted, held, Option.filter_some]
  refine if_neg fun aborted => ?_
  rw [Bool.and_eq_true, decide_eq_true_iff, decide_eq_true_iff] at aborted
  exact spared.elim (fun other => other aborted.1) aborted.2

theorem calAborted_of_none (free : s.cal = none) : s.calAborted b = none := by
  rw [State.calAborted, free]
  rfl

/-- The queues after a field loss, with the records about the context given (R117). -/
theorem queue_loseField {p : Port} {m : List Note} [Decidable (∃ c, bankOf c = b ∧ (s.chan c).own = .owned p)]
    (context : s.notesFor ((s.calAborted b).toList.map fun x => (x.port, .calAborted x.channel)) p = m) :
    (s.loseField b).queue p =
      if s.sessionOpen p then
        joined ((if ∃ c, bankOf c = b ∧ (s.chan c).own = .owned p then [s.note (.fieldLost b)] else
          []) ++ m) (s.queue p)
      else s.queue p := by
  rw [handed_loseField s b p, notesFor_append, notesFor_bankOwners, context]

/-- Settles O51: a due loss takes the bank OFF and closes the context of a channel of it. -/
theorem fieldLossTakesBankOff : Obligations.FieldLossTakesBankOff := by
  unfold Obligations.FieldLossTakesBankOff
  refine fun b s => ⟨fun ok count flags => ?_, fun still => ?_⟩
  · refine ⟨s.loseField b, ?_, by rw [bank_loseField, if_pos rfl], fun e other => ?_, chan_loseField s b,
      fun x held place working => ?_, fun x held kept => ?_, fun free => ?_, fun p => ?_, sameBut_loseField s b⟩
    · show execFieldLoss b s = _
      rw [execFieldLoss, State.takeLoss, if_pos (lossDue_iff.2 ⟨ok, count⟩),
        takeAllFlags_of_not_due ((flagsDue_eq_false s).2 flags)]
    · rw [bank_loseField, if_neg other.symm]
    · rw [cal_loseField, calAborted_of_touched held place working]
      rfl
    · rw [cal_loseField, calAborted_of_spared held kept]
      rfl
    · rw [cal_loseField, calAborted_of_none free, free]
      exact ite_self _
    · cases held : s.cal with
      | none => exact queue_loseField (m := []) (by rw [calAborted_of_none held]; rfl)
      | some x =>
        refine queue_loseField ?_
        by_cases spared : bankOf x.channel ≠ b ∨ x.phase = .committing
        · rw [calAborted_of_spared held spared]
          exact (if_neg fun h => spared.elim (fun other => other h.1) h.2.1).symm
        · obtain ⟨place, working⟩ := not_or.1 spared
          rw [calAborted_of_touched held (not_not.1 place) working]
          by_cases mine : x.port = p
          · simp [State.notesFor, mine, not_not.1 place, working]
          · simp [State.notesFor, mine]
  · have idle : (s.bank b).lossDue = false := by
      rw [Bool.eq_false_iff]
      intro due
      obtain ⟨ok, count⟩ := lossDue_iff.1 due
      rcases still with lost | below
      · rw [ok] at lost
        cases lost
      · omega
    exact congrArg Host.Outcome.next (takeLoss_of_not_due idle)

/-- Settles O52: a due restore returns each channel of the bank by its owner, mode and remembered action. -/
theorem fieldRestoreReturnsBank : Obligations.FieldRestoreReturnsBank := by
  unfold Obligations.FieldRestoreReturnsBank
  refine fun b s => ⟨fun lost count flags => ?_, fun still => ?_⟩
  · refine ⟨s.restoreField b, ?_, by rw [bank_restoreField, if_pos rfl], fun e other => ?_, fun c other => ?_,
      fun c place => ?_, fun p => ?_, sameBut_restoreField s b⟩
    · show execFieldRestore b s = _
      rw [execFieldRestore, State.takeRestore, if_pos (restoreDue_iff.2 ⟨lost, count⟩),
        takeAllFlags_of_not_due ((flagsDue_eq_false s).2 flags)]
    · rw [bank_restoreField, if_neg other.symm]
    · rw [chan_restoreField, if_neg other]
    · rw [chan_restoreField, if_pos place]
      refine ⟨fun p own run => ?_, fun p own idle => ?_, fun unowned x remembered => ?_, fun unowned none => ?_⟩
      · have running : s.ownerRunning (s.chan c) = true := by
          rw [ownerRunning_of_owned own]
          exact running_iff.2 run
        simp only [Chan.restore, owner_eq_some.2 own, running, Chan.enter, if_true]
      · have still : s.ownerRunning (s.chan c) = false := by
          rw [ownerRunning_of_owned own, Bool.eq_false_iff]
          exact fun run => idle (running_iff.1 run)
        simp only [Chan.restore, owner_eq_some.2 own, still, Chan.enter, Bool.false_eq_true, if_false]
      · simp only [Chan.restore, unowned, remembered]
      · simp only [Chan.restore, unowned, none]
    · rw [handed_restoreField s b p, notesFor_bankOwners]
      cases s.sessionOpen p with
      | false => simp
      | true =>
        by_cases owned : ∃ c, bankOf c = b ∧ (s.chan c).own = .owned p
        · rw [if_pos rfl, if_pos owned, if_pos ⟨rfl, owned⟩]
          rfl
        · rw [if_pos rfl, if_neg owned, if_neg fun h => owned h.2]
          rfl
  · have idle : (s.bank b).restoreDue = false := by
      rw [Bool.eq_false_iff]
      intro due
      obtain ⟨lost, count⟩ := restoreDue_iff.1 due
      rcases still with ok | below
      · rw [lost] at ok
        cases ok
      · omega
    exact congrArg Host.Outcome.next (takeRestore_of_not_due idle)

end FieldEvents

end Sys2Proof.Machine

/-! # The update tick (chapter 6, R74, R88, R113, R156, R161) -/

namespace Sys2Proof.Machine

/-! ## The monitor's counts (R114, R115, R121 to R124) -/

section Counts

variable {d : DriveRange} {high : Bool} {readback : Int} {r : Chan}

theorem sample_bank (x : BankState) (high : Bool) :
    x.sample high =
      match x.field, high with
      | .ok, true => ⟨.ok, 0⟩
      | .ok, false => ⟨.ok, x.count + 1⟩
      | .lost, true => ⟨.lost, x.count + 1⟩
      | .lost, false => ⟨.lost, 0⟩ := by
  obtain ⟨field, count⟩ := x
  cases field <;> cases high <;> rfl

theorem measured_eq (d : DriveRange) (loop : Int) (r : Chan) :
    r.measured d loop =
      if r.drive = .off then (if d = .i420 then -2500 else 0) else max (-12000) (min 12000 loop) := by
  cases d <;> rfl

theorem countNext_spec (contradicts : Bool) (count : Nat) :
    (contradicts = true → countNext contradicts count = count + 1) ∧
      (contradicts ≠ true → countNext contradicts count = 0) := by
  cases contradicts <;> simp [countNext]

/-- The drive states and ranges in which open load is evaluated (R121). -/
def Chan.loopCounts (d : DriveRange) (high : Bool) (r : Chan) : Prop :=
  high = true ∧ r.drive ≠ .off ∧ r.drive ≠ .calibrating ∧
    ((d = .i20 ∧ 500 ≤ r.applied) ∨ (d = .i420 ∧ -1875 ≤ r.applied))

/-- The readback shows loop current (R121). -/
def loopCurrent (d : DriveRange) (readback : Int) : Prop :=
  (d = .i20 ∧ 200 ≤ readback) ∨ (d = .i420 ∧ -2250 ≤ readback)

theorem loopEvaluated_iff {x : Drive} : x.loopEvaluated ↔ x ≠ .off ∧ x ≠ .calibrating := by
  cases x <;> simp [Drive.loopEvaluated]

theorem deviationEvaluated_iff {x : Drive} : x.deviationEvaluated ↔ x = .forced ∨ x = .holding ∨ x = .follow := by
  cases x <;> simp [Drive.deviationEvaluated]

theorem openLoadNext_eq {least current : Int} (limits : d.loopLimits = some (least, current)) :
    r.openLoadNext d high readback =
      if r.drive.loopEvaluated && decide (least ≤ r.applied) && high then
        countNext (decide (current ≤ readback) == r.openLoad) r.openLoadCount
      else 0 := by
  rw [Chan.openLoadNext, limits]

theorem openLoadNext_of_limits {least current : Int} (limits : d.loopLimits = some (least, current))
    (counts : r.loopCounts d high ↔ high = true ∧ r.drive ≠ .off ∧ r.drive ≠ .calibrating ∧ least ≤ r.applied)
    (flows : loopCurrent d readback ↔ current ≤ readback) :
    (r.loopCounts d high → (loopCurrent d readback ↔ r.openLoad) →
        r.openLoadNext d high readback = r.openLoadCount + 1) ∧
      (r.loopCounts d high → ¬(loopCurrent d readback ↔ r.openLoad) → r.openLoadNext d high readback = 0) ∧
      (¬r.loopCounts d high → r.openLoadNext d high readback = 0) := by
  have evaluated : (r.drive.loopEvaluated && decide (least ≤ r.applied) && high) = true ↔ r.loopCounts d high := by
    simp only [Bool.and_eq_true, decide_eq_true_eq, loopEvaluated_iff, counts]
    tauto
  have contradicts : (decide (current ≤ readback) == r.openLoad) = true ↔ (loopCurrent d readback ↔ r.openLoad) := by
    rw [flows]
    cases r.openLoad <;> simp
  rw [openLoadNext_eq limits]
  obtain ⟨up, down⟩ := countNext_spec (decide (current ≤ readback) == r.openLoad) r.openLoadCount
  refine ⟨fun h k => ?_, fun h k => ?_, fun h => if_neg fun e => h (evaluated.1 e)⟩
  · rw [if_pos (evaluated.2 h), up (contradicts.2 k)]
  · rw [if_pos (evaluated.2 h), down fun e => k (contradicts.1 e)]

theorem openLoadNext_spec :
    (r.loopCounts d high → (loopCurrent d readback ↔ r.openLoad) →
        r.openLoadNext d high readback = r.openLoadCount + 1) ∧
      (r.loopCounts d high → ¬(loopCurrent d readback ↔ r.openLoad) → r.openLoadNext d high readback = 0) ∧
      (¬r.loopCounts d high → r.openLoadNext d high readback = 0) := by
  cases d with
  | v10 =>
    have still : ¬r.loopCounts .v10 high := by simp [Chan.loopCounts]
    exact ⟨fun h => absurd h still, fun h => absurd h still, fun _ => rfl⟩
  | vb10 =>
    have still : ¬r.loopCounts .vb10 high := by simp [Chan.loopCounts]
    exact ⟨fun h => absurd h still, fun h => absurd h still, fun _ => rfl⟩
  | i20 => exact openLoadNext_of_limits rfl (by simp [Chan.loopCounts]) (by simp [loopCurrent])
  | i420 => exact openLoadNext_of_limits rfl (by simp [Chan.loopCounts]) (by simp [loopCurrent])

/-- The channels of which deviation is evaluated (R123). -/
def Chan.deviationCounts (high : Bool) (r : Chan) : Prop :=
  high = true ∧ (r.drive = .forced ∨ r.drive = .holding ∨ r.drive = .follow) ∧
    (r.applied - r.prevApplied).natAbs ≤ r.config.deviationLimit

theorem deviationNext_spec :
    (r.deviationCounts high → (r.config.deviationLimit < (readback - r.applied).natAbs ↔ r.deviation = false) →
        r.deviationNext high readback = r.deviationCount + 1) ∧
      (r.deviationCounts high → ¬(r.config.deviationLimit < (readback - r.applied).natAbs ↔ r.deviation = false) →
        r.deviationNext high readback = 0) ∧
      (¬r.deviationCounts high → r.deviationNext high readback = 0) := by
  have evaluated : (r.drive.deviationEvaluated &&
      decide ((r.applied - r.prevApplied).natAbs ≤ r.config.deviationLimit) && high) = true ↔
        r.deviationCounts high := by
    simp only [Bool.and_eq_true, decide_eq_true_eq, deviationEvaluated_iff, Chan.deviationCounts]
    tauto
  have contradicts : (decide (r.config.deviationLimit < (readback - r.applied).natAbs) != r.deviation) = true ↔
      (r.config.deviationLimit < (readback - r.applied).natAbs ↔ r.deviation = false) := by
    cases r.deviation <;> simp
  rw [Chan.deviationNext]
  obtain ⟨up, down⟩ :=
    countNext_spec (decide (r.config.deviationLimit < (readback - r.applied).natAbs) != r.deviation) r.deviationCount
  refine ⟨fun h k => ?_, fun h k => ?_, fun h => if_neg fun e => h (evaluated.1 e)⟩
  · rw [if_pos (evaluated.2 h), up (contradicts.2 k)]
  · rw [if_pos (evaluated.2 h), down fun e => k (contradicts.1 e)]

end Counts

section Tick

variable {s : State} {field : Vector Bool 4} {loop : Vector Int 16}

theorem ticking_iff : s.ticking ↔ s.resetAsserted = false ∧ s.timebase.hold = .released := by simp [State.ticking]

theorem updateTick_of_ticking (ticking : s.ticking) (order : TickOrder) :
    s.updateTick field loop order =
      match order with
      | .whole => (s.beginTick field loop).settled
      | .stepFirst => (s.beginTick field loop).takeStep
      | .stepLast => s.beginTick field loop
      | .stepNow => s.takeStep := by
  unfold State.updateTick
  exact if_pos ticking

theorem beginTick_of_quiet (quiet : s.quiet) : s.beginTick field loop = (s.monitor field loop).countTick := by
  rw [State.beginTick, settled_of_quiet quiet]

theorem sameBut_countTick (s : State) : SameBut [.timebase, .stepDue] s s.countTick := by
  intro y hy
  cases y <;> simp [Part.Same, State.countTick] at hy ⊢

/-- Settles O45: what the monitor samples and counts at a tick, and no tick in hold or reset. -/
theorem updateTickSamples : Obligations.UpdateTickSamples := by
  unfold Obligations.UpdateTickSamples
  refine ⟨fun field loop s quiet ended free => ?_, fun field loop order s halted => ?_⟩
  · have monitor := sameBut_monitor s field loop
    have count := sameBut_countTick (s.monitor field loop)
    refine ⟨(s.monitor field loop).countTick, ?_, ?_, rfl, fun b => ?_, fun c off => ?_, fun c d driving => ?_,
      (monitor.weaken (by simp)).trans (count.weaken (by simp))⟩
    · rw [← beginTick_of_quiet quiet]
      exact congrArg Host.Outcome.next (updateTick_of_ticking (ticking_iff.2 ⟨ended, free⟩) .stepLast)
    · rw [State.countTick, monitor .timebase (by simp)]
    · exact (count.bank (by simp) b).trans ((bank_monitor s field loop b).trans (sample_bank _ _))
    · rw [count.chan (by simp), chan_monitor, Chan.sample, off]
    · intro r readback high loopEvaluated current deviationEvaluated deviates
      obtain ⟨loads, noLoad, notLoop⟩ := openLoadNext_spec (d := d) (high := field[bankOf c])
        (readback := readback) (r := r)
      obtain ⟨deviations, noDeviation, notDeviation⟩ :=
        deviationNext_spec (high := field[bankOf c]) (readback := readback) (r := r)
      refine ⟨_, _, loads, noLoad, notLoop, deviations, noDeviation, notDeviation, ?_⟩
      have value : readback = r.measured d loop[c] := (measured_eq d loop[c] r).symm
      rw [count.chan (by simp), chan_monitor, value, Chan.sample, driving]
  · have still : ¬s.ticking := fun ticking => by
      obtain ⟨ended, free⟩ := ticking_iff.1 ticking
      rcases halted with reset | held
      · rw [ended] at reset
        cases reset
      · rw [free] at held
        cases held
    refine congrArg Host.Outcome.next ?_
    unfold State.updateTick
    exact if_neg still

/-- The engine's step as R74 and R88 give it, after the flag changes of its tick. -/
theorem takeStep_steps (due : s.stepDue) :
    let v := s.takeAllFlags
    let t := s.takeStep
    (∀ c, t.chan c = (v.chan c).tick (v.calValue c)) ∧
      Handed v t
        (allChannels.flatMap fun c =>
          if ((v.chan c).drive = .holding ∨ (v.chan c).drive = .ramping) ∧ (t.chan c).drive = .follow then
            (v.chan c).toOwner (.handoverDone c (t.chan c).applied)
          else []) ∧
      t.stepDue = false ∧ SameBut [.chans, .queues, .stepDue] v t := by
  rw [takeStep_of_due due]
  generalize s.takeAllFlags = v
  intro _ t
  have notes : ∀ c, (v.chan c).doneNotes c ((v.chan c).tick (v.calValue c)) =
      if ((v.chan c).drive = .holding ∨ (v.chan c).drive = .ramping) ∧ (t.chan c).drive = .follow then
        (v.chan c).toOwner (.handoverDone c (t.chan c).applied)
      else [] := fun c => by
    simp only [t, Chan.doneNotes, Chan.completes, chan_stepChannels, Bool.and_eq_true, Bool.or_eq_true,
      decide_eq_true_eq]
  have handed := handed_stepChannels v
  simp only [notes] at handed
  exact ⟨chan_stepChannels v, handed, rfl, sameBut_stepChannels v⟩

/-- Settles O46: the engine's step follows the flag changes of its tick, whatever the operand. -/
theorem updateTickSteps : Obligations.UpdateTickSteps := by
  unfold Obligations.UpdateTickSteps
  intro steps
  have step : ∀ u : State, u.stepDue → steps u u.takeStep := fun u due =>
    ⟨u.takeAllFlags, flagsTaken_takeAllFlags u, takeStep_steps due⟩
  refine ⟨fun field loop s quiet ended free => ?_, fun field loop u ended free => ⟨fun due => ?_, fun still => ?_⟩⟩
  · have ticks := updateTick_of_ticking (s := s) (field := field) (loop := loop) (ticking_iff.2 ⟨ended, free⟩)
    refine ⟨s.beginTick field loop, (s.beginTick field loop).takeStep, congrArg Host.Outcome.next (ticks .stepLast),
      congrArg Host.Outcome.next (ticks .stepFirst), ?_, step _ rfl⟩
    rw [← settled_eq_takeDue]
    exact congrArg Host.Outcome.next (ticks .whole)
  · exact ⟨u.takeStep, congrArg Host.Outcome.next
      (updateTick_of_ticking (ticking_iff.2 ⟨ended, free⟩) .stepNow), step u due⟩
  · exact congrArg Host.Outcome.next
      ((updateTick_of_ticking (ticking_iff.2 ⟨ended, free⟩) .stepNow).trans (takeStep_of_not_due still))

end Tick

end Sys2Proof.Machine

/-! # The timer-unit event, claim-wait expiries and lapses (R45, R46, R67, R68, R84, R157) -/

namespace Sys2Proof.Machine

/-! ## The timer-unit event -/

section Unit

variable {s : State} {p : Port}

theorem not_executing_iff {x : PortState} : x.isExecuting = false ↔ ∀ seq, x.transport ≠ .executing seq := by
  rw [Bool.eq_false_iff, Ne, isExecuting_iff]
  exact not_exists

/-- The lease counter of the session counts at a timer-unit event (R67). -/
def State.leaseCounts (s : State) (p : Port) : Prop :=
  s.sessionOpen p ∧ ∀ seq, (s.port p).transport ≠ .executing seq

/-- The session was renewed and its counter stays (R69; notes/assumptions/30.md). -/
def State.leaseStays (s : State) (p : Port) : Prop := s.renewed[p] ∧ (s.session p).counter = 1

theorem countLease_counts (counts : s.leaseCounts p) (moves : ¬s.leaseStays p) :
    (s.session p).countLease (s.port p).isExecuting s.renewed[p] =
      { s.session p with counter := (s.session p).counter - 1 } := by
  obtain ⟨opened, free⟩ := counts
  have idle := not_executing_iff.2 free
  have moving : (s.renewed[p] && decide ((s.session p).counter = 1)) = false := by
    rw [Bool.eq_false_iff]
    intro stays
    rw [Bool.and_eq_true, decide_eq_true_iff] at stays
    exact moves stays
  have isOpen : (s.session p).isOpen = true := opened
  rw [Session.countLease, isOpen, idle, moving]
  rfl

theorem countLease_still (still : ¬s.leaseCounts p ∨ s.leaseStays p) :
    (s.session p).countLease (s.port p).isExecuting s.renewed[p] = s.session p := by
  refine if_neg fun counts => ?_
  simp only [Bool.and_eq_true, Bool.not_eq_true'] at counts
  obtain ⟨⟨opened, free⟩, moves⟩ := counts
  rcases still with shut | stays
  · exact shut ⟨opened, not_executing_iff.1 free⟩
  · rw [Bool.and_eq_false_iff, decide_eq_false_iff_not] at moves
    exact moves.elim (fun fresh => by rw [stays.1] at fresh; cases fresh) fun counter => counter stays.2

theorem leaseEnds_iff :
    s.leaseEnds ↔ ∃ p, s.sessionOpen p ∧
      ((s.session p).counter = 0 ∨ (s.leaseCounts p ∧ ¬s.leaseStays p ∧ (s.session p).counter = 1)) := by
  simp only [State.leaseEnds, List.any_eq_true, mem_allPorts, true_and, lapseDue_countLease, State.leaseCounts,
    State.leaseStays, ← not_executing_iff]
  refine exists_congr fun p => and_congr_right fun opened => or_congr_right ?_
  have isOpen : s.sessionOpen p = true := opened
  simp only [isOpen, true_and]
  cases s.renewed[p] <;> simp

theorem waitEnds_iff : s.waitEnds ↔ ∃ k ∈ s.claims, k.wait = some 0 ∨ k.wait = some 1 := by
  simp only [State.waitEnds, List.any_eq_true, expired_countWait]

/-- Settles O47: each block's count, or its share left waiting when the count would end a wait or a lease. -/
theorem timerUnitCounts : Obligations.TimerUnitCounts := by
  unfold Obligations.TimerUnitCounts
  intro s ticks counts stays leaseEnds waitEnds
  refine ⟨fun due flags => ?_, fun early => ?_⟩
  · obtain ⟨chans, timebase, claims, waits, sessions, leases, renewed, same⟩ := countUnit_spec s
    have lease : s.leaseEnds ↔ leaseEnds := leaseEnds_iff
    have wait : s.waitEnds ↔ waitEnds := waitEnds_iff
    refine ⟨s.countUnit, congrArg Host.Outcome.next (takeUnit_of_due (unitDue_iff.2 due) flags), timebase, chans,
      fun runs => ?_, fun ends => ?_, fun runs => ?_, fun ends => ?_, same⟩
    · have last : s.leaseEnds = false := Bool.eq_false_iff.2 fun h => runs (lease.1 h)
      simp only [last, Bool.false_eq_true, if_false] at sessions leases renewed
      refine ⟨leases, fun q => by rw [renewed]; simp, fun p => ⟨fun c m => ?_, fun still => ?_⟩⟩
      · rw [sessions, countLease_counts c m]
      · rw [sessions, countLease_still still]
    · have last := lease.2 ends
      simp only [last, if_true] at sessions leases renewed
      exact ⟨leases, sessions_ext sessions, renewed⟩
    · have last : s.waitEnds = false := Bool.eq_false_iff.2 fun h => runs (wait.1 h)
      simp only [last, Bool.false_eq_true, if_false] at claims waits
      exact ⟨waits, claims⟩
    · have last := wait.2 ends
      simp only [last, if_true] at claims waits
      exact ⟨waits, claims⟩
  · have idle : s.unitDue = false := Bool.eq_false_iff.2 fun due => absurd (unitDue_iff.1 due) (not_le.2 early)
    exact congrArg Host.Outcome.next (takeUnit_of_not_due idle)

end Unit

/-! ## Claim-wait expiries (R45, R46) -/

section Expiries

variable {s : State}

/-- The claims whose wait has ended are gone and CLAIM_EXPIRED is handed over, before the grant pass (R46). -/
def State.claimsExpired (s : State) : State :=
  State.notifyAll { s with claims := s.claims.filter fun k => !k.expired }
    ((s.claims.filter Claim.expired).map fun k => (k.port, NoteBody.claimExpired k.tag))

theorem claims_claimsExpired : s.claimsExpired.claims = s.claims.filter fun k => !k.expired := by
  rw [State.claimsExpired, claims_notifyAll]

theorem sameBut_claimsExpired : SameBut [.claims, .queues] s s.claimsExpired := by
  refine SameBut.trans (b := { s with claims := s.claims.filter fun k => !k.expired }) ?_
    ((sameBut_notifyAll _ _).weaken (by simp))
  intro y hy
  cases y <;> simp [Part.Same] at hy ⊢

theorem expireClaims_of_some (some : ∃ k ∈ s.claims, k.expired) : s.expireClaims = s.claimsExpired.grantPass := by
  rw [State.expireClaims, if_pos (List.any_eq_true.2 some)]
  rfl

theorem claimsExpired_of_none (none : ∀ k ∈ s.claims, k.expired = false) : s.claimsExpired = s := by
  have kept : s.claims.filter (fun k => !k.expired) = s.claims :=
    List.filter_eq_self.2 fun k hk => by rw [none k hk]; rfl
  have gone : s.claims.filter Claim.expired = [] :=
    List.filter_eq_nil_iff.2 fun k hk => by rw [none k hk]; exact Bool.false_ne_true
  rw [State.claimsExpired, kept, gone]
  rfl

theorem expired_iff {k : Claim} : k.expired ↔ k.wait = some 0 := by simp [Claim.expired]

/-- Settles O49: the waits count, the ended claims leave with their records, and one grant pass follows if any did. -/
theorem claimWaitsExpire : Obligations.ClaimWaitsExpire := by
  unfold Obligations.ClaimWaitsExpire
  intro s counted
  refine ⟨fun due flags => ?_, fun idle => congrArg Host.Outcome.next (takeClaimExpiry_of_not_due idle)⟩
  have claims : s.countWaits.claims = counted := rfl
  refine ⟨s.countWaits.expireClaims, s.countWaits.claimsExpired,
    congrArg Host.Outcome.next (takeClaimExpiry_of_due due flags), ?_, ?_, ?_, ?_, fun ends => ?_, fun none => ?_⟩
  · rw [claims_claimsExpired, claims]
    exact List.filter_congr fun k _ => by simp [Claim.expired]
  · exact (sameBut_claimsExpired (s := s.countWaits)) .waitsDue (by simp)
  · refine handed_of_notifyAll (m := [.claims, .waitsDue]) ?_ (by simp)
    intro y hy
    cases y <;> simp [Part.Same, State.countWaits] at hy ⊢
  · exact ((sameBut_countWaits s).weaken (by simp)).trans (sameBut_claimsExpired.weaken (by simp))
  · obtain ⟨k, hk, ended⟩ := ends
    exact expireClaims_of_some ⟨k, hk, expired_iff.2 ended⟩
  · have running : ∀ k ∈ s.countWaits.claims, k.expired = false := fun k hk =>
      Bool.eq_false_iff.2 fun ended => none k hk (expired_iff.1 ended)
    rw [expireClaims_of_none running, claimsExpired_of_none running]

end Expiries

/-! ## Lapses (R48, R67, R68) -/

section Lapses

variable {s : State} {p : Port}

/-- A grant pass hands no record to a port without an open session (R129). -/
theorem queue_grantPass_of_shut (shut : s.sessionOpen p = false) : s.grantPass.queue p = s.queue p := by
  obtain ⟨granted, rest, walked⟩ := grantPass_walked s
  have cleared : SameBut [.chans] s s.clearReservations := sameBut_mapChans s _
  have handed := walked.handed p
  rwa [cleared.sessionOpen (by simp), shut, if_neg Bool.false_ne_true, cleared.queue (by simp)] at handed

/-- The lapse of some session: LEASE_LAPSED joins the queues after the grant pass (R68). -/
theorem lapseSessions_of_some (some : ∃ p, (s.session p).lapseDue) :
    SameBut [.queues] s.lapseWithdrawn.grantPass s.lapseSessions ∧
      (∀ p, (s.session p).lapseDue → s.lapseSessions.queue p = appendNote (s.note .leaseLapsed) (s.queue p)) ∧
      ∀ p, (s.session p).lapseDue = false → s.lapseSessions.queue p = s.lapseWithdrawn.grantPass.queue p := by
  obtain ⟨q, due⟩ := some
  have lapses : s.lapseSessions =
      (allPorts.filter fun p => (s.session p).lapseDue).foldl State.noteLapse s.lapseWithdrawn.grantPass := by
    rw [State.lapseSessions, if_pos (List.any_eq_true.2 ⟨q, mem_allPorts q, due⟩)]
    rfl
  obtain ⟨same, queues⟩ := noteLapse_foldl s.lapseWithdrawn.grantPass
    (List.Nodup.filter (fun p => (s.session p).lapseDue) (show allPorts.Nodup by decide))
  rw [← lapses] at same queues
  refine ⟨same, fun p due => ?_, fun p running => ?_⟩
  · have shut : s.lapseWithdrawn.sessionOpen p = false := by
      rw [State.sessionOpen, session_lapseWithdrawn, if_pos due]
      rfl
    rw [queues p, if_pos (List.mem_filter.2 ⟨mem_allPorts p, due⟩), queue_grantPass_of_shut shut,
      sameBut_lapseWithdrawn.queue (by simp), (sameBut_grantPass _).note (by simp),
        sameBut_lapseWithdrawn.note (by simp)]
  · rw [queues p, if_neg fun h => by rw [(List.mem_filter.1 h).2] at running; cases running]

theorem chan_lapseWithdrawn_of_due {c : Channel} (own : (s.chan c).own = .owned p) (due : (s.session p).lapseDue) :
    s.lapseWithdrawn.chan c = (s.chan c).release (s.bankOk c) (s.chan c).config.lapseAction := by
  rw [sameBut_withdraw_lapseWithdrawn.chan (by simp), chan_withdraw, own]
  exact if_pos due

theorem chan_lapseWithdrawn_of_kept {c : Channel}
    (kept : ∀ q, (s.chan c).own = .owned q → (s.session q).lapseDue = false) : s.lapseWithdrawn.chan c = s.chan c := by
  rw [sameBut_withdraw_lapseWithdrawn.chan (by simp)]
  cases own : (s.chan c).own with
  | free => simp only [chan_withdraw, own]
  | reserved => simp only [chan_withdraw, own]
  | owned q => simp only [chan_withdraw, own, kept q own, Bool.false_eq_true, if_false]

theorem lapseWithdrawn_of_none (none : ∀ p, (s.session p).lapseDue = false) : s.lapseWithdrawn = s := by
  refine SameBut.eq fun y _ => ?_
  have kept := sameBut_lapseWithdrawn (s := s)
  have withdrawn := sameBut_withdraw_lapseWithdrawn (s := s)
  cases y with
  | chans => exact chans_ext fun c => chan_lapseWithdrawn_of_kept fun q _ => none q
  | sessions => exact sessions_ext fun p => by rw [session_lapseWithdrawn, none p]; rfl
  | claims =>
    refine Eq.trans (withdrawn .claims (by simp)) (List.filter_eq_self.2 fun k _ => ?_)
    show (!((s.session k.port).lapseDue && s.ownsClaim k.port k)) = true
    rw [none]
    rfl
  | cal =>
    refine Eq.trans (withdrawn .cal (by simp)) ?_
    show (s.cal.filter fun x => !((s.session x.port).lapseDue && s.holdsCal x.port)) = s.cal
    simp only [none, Bool.false_and, Bool.not_false]
    cases s.cal <;> rfl
  | _ => exact kept _ (by simp)

/-! ### The leases counted (R67) -/

theorem session_countLeases_eq (p : Port) :
    s.countLeases.session p = { s.session p with counter := (s.countLeases.session p).counter } := by
  rw [session_countLeases]
  rcases countLease_cases (s.session p) (s.port p).isExecuting s.renewed[p] with same | ⟨-, counts⟩
  · rw [same]
  · rw [counts]

theorem contextAgrees_countLeases (h : s.ContextAgrees) : s.countLeases.ContextAgrees := by
  have counts := sameBut_countLeases s
  intro x held
  rw [counts .cal (by simp)] at held
  rw [counts.chan (by simp), counts.port (by simp), session_countLeases_eq]
  exact h x held

theorem ownersOpen_countLeases (h : s.OwnersOpen) : s.countLeases.OwnersOpen :=
  ownersOpen_congr (fun c => by rw [(sameBut_countLeases s).chan (by simp)]) (sameBut_countLeases s .claims (by simp))
    sessionsAlike_countLeases h

theorem claims_lapseWithdrawn (h : s.OwnersOpen) :
    s.lapseWithdrawn.claims = s.claims.filter fun k => !(s.session k.port).lapseDue :=
  (sameBut_withdraw_lapseWithdrawn .claims (by simp)).trans (claims_withdraw h _ _)

theorem cal_lapseWithdrawn (h : s.ContextAgrees) :
    s.lapseWithdrawn.cal = s.cal.filter fun x => !(s.session x.port).lapseDue :=
  (sameBut_withdraw_lapseWithdrawn .cal (by simp)).trans (cal_withdraw h _ _)

theorem counter_countLeases_of_counts (counts : s.leaseCounts p) :
    (s.countLeases.session p).counter =
      if s.renewed[p] ∧ (s.session p).counter = 1 then 1 else (s.session p).counter - 1 := by
  rw [session_countLeases]
  by_cases stays : s.leaseStays p
  · rw [countLease_still (.inr stays)]
    exact stays.2.trans (if_pos stays).symm
  · rw [countLease_counts counts stays]
    exact (if_neg stays).symm

/-- Settles O48: the leases count, and the sessions whose counter is then 0 are withdrawn in one event. -/
theorem lapseEndsSessions : Obligations.LapseEndsSessions := by
  unfold Obligations.LapseEndsSessions
  intro s counted due
  refine ⟨fun waits flags sound => ?_, fun idle => congrArg Host.Outcome.next (takeLapse_of_not_due idle)⟩
  have counts := sameBut_countLeases s
  have counter : ∀ p, (s.countLeases.session p).counter = counted p := fun p => by
    have still : ¬s.leaseCounts p → (s.countLeases.session p).counter = (s.session p).counter := fun shut => by
      rw [session_countLeases, countLease_still (.inl shut)]
    cases opened : s.sessionOpen p with
    | false =>
      simp only [counted, opened]
      exact still fun counts => by rw [counts.1] at opened; cases opened
    | true =>
      cases transport : (s.port p).transport with
      | executing seq =>
        simp only [counted, opened, transport]
        exact still fun counts => counts.2 seq transport
      | ready =>
        simp only [counted, opened, transport]
        exact counter_countLeases_of_counts ⟨opened, fun seq => by rw [transport]; exact nofun⟩
      | answered r replay =>
        simp only [counted, opened, transport]
        exact counter_countLeases_of_counts ⟨opened, fun seq => by rw [transport]; exact nofun⟩
  have lapses : ∀ p, (s.countLeases.session p).lapseDue ↔ due p := fun p => by
    rw [lapseDue_iff, (sessionsAlike_countLeases p).1, counter p]
  have stays : ∀ p, ¬due p → (s.countLeases.session p).lapseDue = false := fun p running =>
    Bool.eq_false_iff.2 fun h => running ((lapses p).1 h)
  have withdrawn := sameBut_lapseWithdrawn (s := s.countLeases)
  refine ⟨s.countLeases.lapseSessions, s.countLeases.lapseWithdrawn,
    congrArg Host.Outcome.next (takeLapse_of_due waits flags), fun c p own ends => ?_, fun c kept => ?_, ?_,
    fun x held ends => ?_, fun kept => ?_, fun p ends => ?_, fun p running => ?_, withdrawn .leasesDue (by simp),
    fun q => ?_, (counts.weaken (by simp)).trans (withdrawn.weaken (by simp)), fun some => ?_, fun none => ?_⟩
  · rw [chan_lapseWithdrawn_of_due (p := p) (by rw [counts.chan (by simp)]; exact own) ((lapses p).2 ends),
      counts.chan (by simp), counts.bankOk (by simp)]
  · rw [chan_lapseWithdrawn_of_kept fun q own => stays q (kept q (by rw [← counts.chan (by simp)]; exact own)),
      counts.chan (by simp)]
  · rw [claims_lapseWithdrawn (ownersOpen_countLeases sound.owners), counts .claims (by simp)]
    refine List.filter_congr fun k _ => ?_
    rw [Session.lapseDue, counter]
    exact congrArg (fun b => !(b && decide (counted k.port = 0))) (sessionsAlike_countLeases k.port).1
  · rw [cal_lapseWithdrawn (contextAgrees_countLeases sound.context), counts .cal (by simp), held, Option.filter_some,
      (lapses _).2 ends]
    rfl
  · rw [cal_lapseWithdrawn (contextAgrees_countLeases sound.context), counts .cal (by simp)]
    cases held : s.cal with
    | none => rfl
    | some x => rw [Option.filter_some, stays _ (kept x held)]; rfl
  · rw [session_lapseWithdrawn, if_pos ((lapses p).2 ends), session_countLeases_eq, counter, ends.2]
  · rw [session_lapseWithdrawn, stays p running, session_countLeases_eq, counter]
    rfl
  · rw [withdrawn .renewed (by simp)]
    simp [State.countLeases]
  · obtain ⟨p, ends⟩ := some
    obtain ⟨same, told, others⟩ := lapseSessions_of_some ⟨p, (lapses p).2 ends⟩
    refine ⟨fun p ends => ?_, fun p running => others p (stays p running), same⟩
    rw [told p ((lapses p).2 ends), counts.queue (by simp), counts.note (by simp)]
    rfl
  · rw [lapseSessions_of_none fun p => stays p (none p), lapseWithdrawn_of_none fun p => stays p (none p)]

end Lapses

end Sys2Proof.Machine
